-- ==== Sys2Proof/Word.lean ====
section
/-! DEFINITION. The word and byte types of the core (00_scope.md R7, R9, R10). Word addition, exclusive-or and the
logical shifts are BitVec's own: addition wraps modulo 2^32 and a right shift brings in zeros. -/

namespace Sys2Proof

/-- An unsigned 8-bit value (R9). -/
abbrev Byte := BitVec 8

/-- An unsigned 32-bit value (R7, R9). -/
abbrev Word := BitVec 32

/-- "An ordered sequence of exactly 16 unsigned 32-bit words" (R7, the state of the cipher). -/
abbrev Words := Vector Word 16

end Sys2Proof
end

