-- ==== Sys2Proof/Config.lean ====
section
/-! DEFINITION. What is fixed for the machine. Every size of the core is fixed (00_scope.md R7, R8) and no rule leaves
a value open, so this file holds two numbers and no free value. -/

namespace Sys2Proof.Config

/-- "20 = 10 double rounds" (R7). -/
def doubleRounds : Nat := 10

/-- A session generates at most 2^32 blocks (R30, R167). -/
def maxBlocks : BitVec 33 := 0x100000000

end Sys2Proof.Config
end

