-- ==== Sys2Proof/Syntax.lean ====
section
/-! DEFINITION. The commands, one constructor per row of spec/opcode_table.json (30_encoding.md R76). The operands are
the fields of CMD; DIN is not decoded (R75) and is read from the state. -/

namespace Sys2Proof

/-- The 25 commands. An index operand is an unsigned 4-bit number, 0..15 (R73, R74). -/
inductive Instr where
  /-- NOP (R90). -/
  | nop
  /-- RST, soft reset (R91). -/
  | rst
  /-- RDR idx, read a control register (R92). -/
  | rdr (idx : Fin 16)
  /-- KCLR, clear the key (R101). -/
  | kclr
  /-- KB, append one key byte (R102). -/
  | kb
  /-- KW, append four key bytes (R103). -/
  | kw
  /-- NCLR, clear the nonce (R105). -/
  | nclr
  /-- NB, append one nonce byte (R106). -/
  | nb
  /-- NW, append four nonce bytes (R107). -/
  | nw
  /-- CTRW, write the initial counter (R108). -/
  | ctrw
  /-- INIT, build the initial state (R124). -/
  | init
  /-- QR a, b, c, d, one quarter-round (R123). -/
  | qr (a b c d : Fin 16)
  /-- COLR, column round (R125). -/
  | colr
  /-- DIAGR, diagonal round (R126). -/
  | diagr
  /-- DBLR, one double round (R127). -/
  | dblr
  /-- FFWD, feed-forward (R128). -/
  | ffwd
  /-- WW idx, write a working word (R129). -/
  | ww (idx : Fin 16)
  /-- WR idx, read a working word (R130). -/
  | wr (idx : Fin 16)
  /-- SR idx, read an initial-state word (R131). -/
  | sr (idx : Fin 16)
  /-- BLOCK, compute one keystream block (R151). -/
  | block
  /-- KSR idx, read a keystream word (R152). -/
  | ksr (idx : Fin 16)
  /-- SBEGIN, start a session (R162). -/
  | sbegin
  /-- XB, XOR one byte with the keystream (R163). -/
  | xb
  /-- XW, XOR four bytes with the keystream (R164). -/
  | xw
  /-- SEND, end the session (R165). -/
  | send
  deriving DecidableEq, Repr

end Sys2Proof
end

