-- ==== Sys2Proof/WellFormed.lean ====
section
/-! DEFINITION. Which commands are legal as syntax. The one check of the spec is on RDR: its indices 5..15 are reserved
(30_encoding.md R79). QR's distinctness is checked at execution and is no part of this (R79). -/

namespace Sys2Proof

/-- "No other command has a reserved field value" than RDR, whose index is 0..4 (R79). -/
def Instr.wellFormed : Instr → Bool
  | .rdr idx => decide (idx.val ≤ 4)
  | .nop => true
  | .rst => true
  | .kclr => true
  | .kb => true
  | .kw => true
  | .nclr => true
  | .nb => true
  | .nw => true
  | .ctrw => true
  | .init => true
  | .qr _ _ _ _ => true
  | .colr => true
  | .diagr => true
  | .dblr => true
  | .ffwd => true
  | .ww _ => true
  | .wr _ => true
  | .sr _ => true
  | .block => true
  | .ksr _ => true
  | .sbegin => true
  | .xb => true
  | .xw => true
  | .send => true

end Sys2Proof
end

