-- ==== Sys2Proof/Decode.lean ====
section
/-! DEFINITION. Decoding a CMD word and encoding a command, from 30_encoding.md R71 to R79 and R83. Decoding is total:
every word is a command or is rejected by name. -/

namespace Sys2Proof

/-- Why a CMD word is no command. Each of the three makes the core raise IllegalCommand (R77, R78, R79). -/
inductive DecodeError where
  /-- The opcode is none of the 25 (R77). -/
  | unassignedOpcode
  /-- The opcode is assigned and a reserved bit of its format is not 0 (R78). -/
  | reservedBits
  /-- RDR with an index of 5..15 (R79). -/
  | reservedIndex
  deriving DecidableEq, Repr

/-! ## Fields of CMD (R71 to R74) -/

/-- `OPC = CMD[31:24]` (R72). -/
def opcField (cmd : Word) : BitVec 8 := cmd.extractLsb' 24 8

/-- The unsigned 4-bit field of CMD whose lowest bit is bit `lo`. -/
def nibble (cmd : Word) (lo : Nat) : Fin 16 := ⟨(cmd.extractLsb' lo 4).toNat, (cmd.extractLsb' lo 4).isLt⟩

/-- `IDX = CMD[3:0]` (R73). -/
def idxField (cmd : Word) : Fin 16 := nibble cmd 0

/-- `A = CMD[23:20]` (R74). -/
def aField (cmd : Word) : Fin 16 := nibble cmd 20

/-- `B = CMD[19:16]` (R74). -/
def bField (cmd : Word) : Fin 16 := nibble cmd 16

/-- `C = CMD[15:12]` (R74). -/
def cField (cmd : Word) : Fin 16 := nibble cmd 12

/-- `D = CMD[11:8]` (R74). -/
def dField (cmd : Word) : Fin 16 := nibble cmd 8

/-! ## The formats (R71, R78) -/

/-- Format N: `CMD[23:0]` is reserved and must be 0. -/
def decodeN (cmd : Word) (i : Instr) : Except DecodeError Instr :=
  if cmd.extractLsb' 0 24 = 0 then .ok i else .error .reservedBits

/-- Format I: `CMD[23:4]` is reserved and must be 0. -/
def decodeI (cmd : Word) (f : Fin 16 → Instr) : Except DecodeError Instr :=
  if cmd.extractLsb' 4 20 = 0 then .ok (f (idxField cmd)) else .error .reservedBits

/-- Format Q: `CMD[7:0]` is reserved and must be 0. -/
def decodeQ (cmd : Word) (f : Fin 16 → Fin 16 → Fin 16 → Fin 16 → Instr) : Except DecodeError Instr :=
  if cmd.extractLsb' 0 8 = 0 then .ok (f (aField cmd) (bField cmd) (cField cmd) (dField cmd)) else .error .reservedBits

/-- RDR's word: format I, and its indices 5..15 are reserved (R79). -/
def decodeRdr (cmd : Word) : Except DecodeError Instr :=
  if cmd.extractLsb' 4 20 = 0 then
    if (idxField cmd).val ≤ 4 then .ok (.rdr (idxField cmd)) else .error .reservedIndex
  else .error .reservedBits

/-! ## The opcode map (R76, R77) -/

/-- The row of the opcode map that an opcode selects, applied to the CMD word (R72, R76, R77). -/
def decodeRow (opc : BitVec 8) (cmd : Word) : Except DecodeError Instr :=
  match opc.toNat with
  | 0x00 => decodeN cmd .nop
  | 0x01 => decodeN cmd .rst
  | 0x02 => decodeRdr cmd
  | 0x10 => decodeN cmd .kclr
  | 0x11 => decodeN cmd .kb
  | 0x12 => decodeN cmd .kw
  | 0x13 => decodeN cmd .nclr
  | 0x14 => decodeN cmd .nb
  | 0x15 => decodeN cmd .nw
  | 0x16 => decodeN cmd .ctrw
  | 0x20 => decodeN cmd .init
  | 0x21 => decodeQ cmd .qr
  | 0x22 => decodeN cmd .colr
  | 0x23 => decodeN cmd .diagr
  | 0x24 => decodeN cmd .dblr
  | 0x25 => decodeN cmd .ffwd
  | 0x26 => decodeI cmd .ww
  | 0x27 => decodeI cmd .wr
  | 0x28 => decodeI cmd .sr
  | 0x30 => decodeN cmd .block
  | 0x31 => decodeI cmd .ksr
  | 0x40 => decodeN cmd .sbegin
  | 0x41 => decodeN cmd .xb
  | 0x42 => decodeN cmd .xw
  | 0x43 => decodeN cmd .send
  | _ => .error .unassignedOpcode

/-- The command that a CMD word stands for, or why it stands for none. "The opcode alone selects both the command and its
format" (R72). -/
def decode (cmd : Word) : Except DecodeError Instr := decodeRow (opcField cmd) cmd

/-! ## Encoding (R83) -/

/-- A command's opcode (R76). -/
def Instr.opcode : Instr → BitVec 8
  | .nop => 0x00
  | .rst => 0x01
  | .rdr _ => 0x02
  | .kclr => 0x10
  | .kb => 0x11
  | .kw => 0x12
  | .nclr => 0x13
  | .nb => 0x14
  | .nw => 0x15
  | .ctrw => 0x16
  | .init => 0x20
  | .qr _ _ _ _ => 0x21
  | .colr => 0x22
  | .diagr => 0x23
  | .dblr => 0x24
  | .ffwd => 0x25
  | .ww _ => 0x26
  | .wr _ => 0x27
  | .sr _ => 0x28
  | .block => 0x30
  | .ksr _ => 0x31
  | .sbegin => 0x40
  | .xb => 0x41
  | .xw => 0x42
  | .send => 0x43

/-- An index as a 32-bit word. -/
def indexWord (x : Fin 16) : Word := BitVec.ofNat 32 x.val

/-- The bits of CMD below the opcode (R83): the index of format I, the four indices of format Q, nothing of format N. -/
def operandBits : Instr → Word
  | .rdr idx => indexWord idx
  | .ww idx => indexWord idx
  | .wr idx => indexWord idx
  | .sr idx => indexWord idx
  | .ksr idx => indexWord idx
  | .qr a b c d => indexWord a <<< 20 ||| indexWord b <<< 16 ||| indexWord c <<< 12 ||| indexWord d <<< 8
  | .nop => 0
  | .rst => 0
  | .kclr => 0
  | .kb => 0
  | .kw => 0
  | .nclr => 0
  | .nb => 0
  | .nw => 0
  | .ctrw => 0
  | .init => 0
  | .colr => 0
  | .diagr => 0
  | .dblr => 0
  | .ffwd => 0
  | .block => 0
  | .sbegin => 0
  | .xb => 0
  | .xw => 0
  | .send => 0

/-- The CMD word of a command: `opc << 24` with its operand fields (R83). -/
def encode (i : Instr) : Word := i.opcode.setWidth 32 <<< 24 ||| operandBits i

/-! ## The host's view of an encoded command: CMD is bits 31..0 and DIN bits 63..32 (R81) -/

/-- The CMD word of a transaction of `nbits` bits. -/
def tableCmd (nbits w : Nat) : Word := BitVec.ofNat 32 (w % 2 ^ nbits)

/-- The DIN word of a transaction of `nbits` bits: 0 where the table gives it no bits. -/
def tableDin (nbits w : Nat) : Word := BitVec.ofNat 32 (w % 2 ^ nbits / 2 ^ 32)

/-- The command the decoder reads from an opcode-table word, or none. -/
def decodeTableWord (nbits w : Nat) : Option Instr :=
  match decode (tableCmd nbits w) with
  | .ok i => some i
  | .error _ => none

end Sys2Proof
end

