-- ==== Sys2Proof/Machine/State.lean ====
section
/-! DEFINITION. The state of the core as plain data, its reset value, and the reasons a step could stop. State holds the
sixteen registers of 10_state.md R20 ("exactly the following registers") and, beside them, the host's side of the
interface: the DIN word in use and the host's list of events (log entry 1). -/

namespace Sys2Proof.Machine

/-- One event of the host (92_eei_decisions.md D2): it issues a pair (CMD, DIN) (R70) or asserts RESET (R210). -/
inductive HostInput where
  /-- The pair (CMD, DIN). -/
  | command (cmd din : Word)
  /-- The RESET input. -/
  | reset
  deriving DecidableEq, Repr

/-- The registers of R20 under the spec's names in lower case, then the two fields of the host's side. The integer
registers KLEN, NLEN and POS have exactly the spec's ranges (log entry 8). -/
structure State where
  /-- W[0..15], the working state (R21). -/
  w : Words
  /-- S[0..15], the initial state kept for the feed-forward (R22). -/
  s : Words
  /-- KS[0..63], the keystream block (R24). -/
  ks : Vector Byte 64
  /-- KEY[0..31] (R25). -/
  key : Vector Byte 32
  /-- KLEN, 0..33: how many key bytes were appended, 33 meaning more than 32 (R25). -/
  klen : Fin 34
  /-- NONCE[0..11] (R26). -/
  nonce : Vector Byte 12
  /-- NLEN, 0..13: how many nonce bytes were appended, 13 meaning more than 12 (R26). -/
  nlen : Fin 14
  /-- COUNTER, the initial counter (R27). -/
  counter : Word
  /-- SESS, a stream session is active (R28). -/
  sess : Bool
  /-- CTRN, the counter of the session's next block (R29). -/
  ctrn : Word
  /-- BLKS, the blocks generated since the last SBEGIN, 0..2^32 in 33 bits (R30). -/
  blks : BitVec 33
  /-- POS, 0..64: the next keystream byte of KS, 64 meaning none is left (R31). -/
  pos : Fin 65
  /-- KSV, a block was generated into KS since reset (R32). -/
  ksv : Bool
  /-- DOUT, the data output (R33). -/
  dout : Word
  /-- ERR, the error code of the most recent command (R34, R180). -/
  err : BitVec 4
  /-- FAULTED, sticky: a command faulted since reset (R34, R185). -/
  faulted : Bool
  /-- DIN, the data input of the command being executed (R70; log entry 1). -/
  din : Word
  /-- The host's events still to come, next first (R85; log entry 1). -/
  inputs : List HostInput
  deriving DecidableEq, Repr

/-- The reasons the machine itself could stop. There are none: "a fault never halts or hangs it" (R182), so a fault of
the spec is a next state (Machine.State.raise) and nobody raises a value of this type. Safe: no run ends early. -/
inductive Fault where
  deriving DecidableEq, Repr

/-- The reasons an instruction could be without a meaning. -/
inductive Refusal where
  /-- Raised by an arm of exec for a command not modelled yet, under its mnemonic; no arm raises it. Safe: it stops. -/
  | notModelled (mnemonic : String)
  deriving DecidableEq, Repr

/-- The core right after reset (R40): every register 0, but POS, which is 64. The host's two fields have no value in the
spec (DESIGN CHOICE, log entry 1). -/
def State.reset : State where
  w := Vector.replicate 16 0
  s := Vector.replicate 16 0
  ks := Vector.replicate 64 0
  key := Vector.replicate 32 0
  klen := 0
  nonce := Vector.replicate 12 0
  nlen := 0
  counter := 0
  sess := false
  ctrn := 0
  blks := 0
  pos := 64
  ksv := false
  dout := 0
  err := 0
  faulted := false
  din := 0
  inputs := []

end Sys2Proof.Machine
end

