-- ==== Sys2Proof/Machine/Operands.lean ====
section
/-! DEFINITION. The conversions between words and bytes and the byte lanes of DIN, DOUT and KS (00_scope.md R11,
20_memory.md R50 to R52). All are little-endian; nothing switches the byte order (R50). -/

namespace Sys2Proof.Machine

/-- `rotl(x, n) = (x << n) | (x >>> (32 - n))`, n in 1..31 (R11); the right shift is logical (R10, log entry 9). -/
def rotl (x : Word) (n : Nat) : Word := x <<< n ||| x >>> (32 - n)

/-- `LE4(b0, b1, b2, b3)`: four bytes, the first least significant, as a word (R11). -/
def le4 (b0 b1 b2 b3 : Byte) : Word :=
  b0.setWidth 32 ||| b1.setWidth 32 <<< 8 ||| b2.setWidth 32 <<< 16 ||| b3.setWidth 32 <<< 24

/-- Byte `k` of `bytes(x)`: `x[8k+7:8k]` (R11, R51). -/
def byteOf (x : Word) (k : Nat) : Byte := x.extractLsb' (8 * k) 8

/-- Byte `k` of the data input, `DIN[8k+7:8k]` (R51). -/
def State.dinByte (s : State) (k : Nat) : Byte := byteOf s.din k

/-- Key word `j`: `LE4(KEY[4j], KEY[4j+1], KEY[4j+2], KEY[4j+3])` (R22). -/
def keyWord (key : Vector Byte 32) (j : Fin 8) : Word :=
  le4 key[4 * j.val] key[4 * j.val + 1] key[4 * j.val + 2] key[4 * j.val + 3]

/-- Nonce word `j`: `LE4(NONCE[4j], NONCE[4j+1], NONCE[4j+2], NONCE[4j+3])` (R22). -/
def nonceWord (nonce : Vector Byte 12) (j : Fin 3) : Word :=
  le4 nonce[4 * j.val] nonce[4 * j.val + 1] nonce[4 * j.val + 2] nonce[4 * j.val + 3]

/-- Word `i` of the keystream buffer: `LE4(KS[4i], KS[4i+1], KS[4i+2], KS[4i+3])` (R52, R152). -/
def ksWord (ks : Vector Byte 64) (i : Fin 16) : Word :=
  le4 ks[4 * i.val] ks[4 * i.val + 1] ks[4 * i.val + 2] ks[4 * i.val + 3]

/-- The four bytes of each word in order, first byte least significant: `KS[4i + k] = W[i][8k+7:8k]` (R50). -/
@[irreducible] def serialize (w : Words) : Vector Byte 64 := Vector.ofFn fun j => byteOf w[j.val / 4] (j.val % 4)

end Sys2Proof.Machine
end

