-- ==== Sys2Proof/Machine/Cipher.lean ====
section
/-! DEFINITION. The cipher on plain data: the quarter-round, the rounds, the initial state, the feed-forward and the
keystream block (42_permutation.md R120, R122, R125 to R128; 43_block.md R150). -/

namespace Sys2Proof.Machine

/-- One line of the quarter-round: `W[x] <- W[x] + W[y]; W[z] <- W[z] ^ W[x]; W[z] <- rotl(W[z], n)` (R122). -/
@[irreducible] def mixLine (w : Words) (x y z : Fin 16) (n : Nat) : Words :=
  let v := w.set x (w[x] + w[y])
  v.set z (rotl (v[z] ^^^ v[x]) n)

/-- `QR(a, b, c, d)` on W, its four lines in order (R122). -/
def quarterRound (w : Words) (a b c d : Fin 16) : Words :=
  mixLine (mixLine (mixLine (mixLine w a b d 16) c d b 12) a b d 8) c d b 7

/-- The four column quarter-rounds, in order (R125). -/
def columnRound (w : Words) : Words :=
  quarterRound (quarterRound (quarterRound (quarterRound w 0 4 8 12) 1 5 9 13) 2 6 10 14) 3 7 11 15

/-- The four diagonal quarter-rounds, in order (R126). -/
def diagonalRound (w : Words) : Words :=
  quarterRound (quarterRound (quarterRound (quarterRound w 0 5 10 15) 1 6 11 12) 2 7 8 13) 3 4 9 14

/-- Columns, then diagonals (R127). -/
def doubleRound (w : Words) : Words := diagonalRound (columnRound w)

/-- `n` double rounds one after another. -/
def doubleRoundsOf : Nat → Words → Words
  | 0, w => w
  | n + 1, w => doubleRoundsOf n (doubleRound w)

/-- `W[i] <- W[i] + S[i]` for every i, modulo 2^32 (R128). -/
@[irreducible] def feedForward (w s : Words) : Words := Vector.ofFn fun i => w[i] + s[i]

/-- `InitState(ctr)`: the four constants of R23, eight key words, the counter word, three nonce words (R120, R22). -/
def initState (key : Vector Byte 32) (nonce : Vector Byte 12) (ctr : Word) : Words :=
  #v[0x61707865, 0x3320646E, 0x79622D32, 0x6B206574,
    keyWord key 0, keyWord key 1, keyWord key 2, keyWord key 3,
    keyWord key 4, keyWord key 5, keyWord key 6, keyWord key 7,
    ctr, nonceWord nonce 0, nonceWord nonce 1, nonceWord nonce 2]

/-- The final 16 words of the block whose initial state is `s`: the double rounds and the feed-forward (R150, steps 3
and 4). -/
def finalWords (s : Words) : Words := feedForward (doubleRoundsOf Config.doubleRounds s) s

/-- The 64 bytes of the block function for a key, a nonce and a counter word (R150, step 5). -/
def keystreamBlock (key : Vector Byte 32) (nonce : Vector Byte 12) (ctr : Word) : Vector Byte 64 :=
  serialize (finalWords (initState key nonce ctr))

end Sys2Proof.Machine
end

