-- ==== Sys2Proof/Machine/Flags.lean ====
section
/-! DEFINITION. The error codes and the STATUS word (60_exceptions.md R180, 10_state.md R34). The core has no condition
codes (R36); STATUS is computed from the registers it shows and is written by no command (R34). -/

namespace Sys2Proof.Machine

/-- The causes of a fault (R180). -/
inductive ErrorCode where
  /-- `KLEN != 32` when a state is to be built. -/
  | invalidKeyLength
  /-- `NLEN != 12` when a state is to be built. -/
  | invalidNonceLength
  /-- The CMD word is no command. -/
  | illegalCommand
  /-- QR's indices are not pairwise distinct. -/
  | indexAlias
  /-- The command is not allowed in a session. -/
  | busy
  /-- A keystream byte is requested without a session. -/
  | noSession
  /-- A generation is needed after 2^32 blocks. -/
  | keystreamExhausted
  deriving DecidableEq, Repr

/-- The code that ERR shows (R180); 0 is success and 8..15 are never produced. -/
def ErrorCode.code : ErrorCode → BitVec 4
  | .invalidKeyLength => 1
  | .invalidNonceLength => 2
  | .illegalCommand => 3
  | .indexAlias => 4
  | .busy => 5
  | .noSession => 6
  | .keystreamExhausted => 7

/-- STATUS (R34): POS in bits 30:24, NLEN in 19:16, KLEN in 13:8, KSV in 6, SESS in 5, FAULTED in 4, ERR in 3:0, and the
reserved bits 31, 23:20, 15:14 and 7 are 0. -/
def State.status (s : State) : Word :=
  BitVec.ofNat 32 s.pos.val <<< 24 ||| BitVec.ofNat 32 s.nlen.val <<< 16 ||| BitVec.ofNat 32 s.klen.val <<< 8 |||
    (BitVec.ofBool s.ksv).setWidth 32 <<< 6 ||| (BitVec.ofBool s.sess).setWidth 32 <<< 5 |||
    (BitVec.ofBool s.faulted).setWidth 32 <<< 4 ||| s.err.setWidth 32

/-- The RDR map (R37); an index of 5..15 is reserved and RDR faults on it before this is asked. -/
def State.controlRegister (s : State) (idx : Fin 16) : Word :=
  match idx.val with
  | 0 => s.status
  | 1 => s.counter
  | 2 => s.ctrn
  | 3 => s.blks.extractLsb' 0 32
  | _ => (s.blks.extractLsb' 32 1).setWidth 32

end Sys2Proof.Machine
end

