-- ==== Sys2Proof/Machine/Ops.lean ====
section
/-! DEFINITION. The shared operations of the commands: raising a fault and succeeding (60_exceptions.md R182 to R184), the
checks (R121, R123, R167, R183), reset (70_reset_and_hazards.md R211), appending key and nonce bytes (41_load.md R100,
R104), generating a block (43_block.md R150) and taking keystream bytes (44_stream.md R161). -/

namespace Sys2Proof.Machine

/-! ## How a command ends -/

/-- `Fault(code)`: `ERR <- code; FAULTED <- 1`, and nothing else changes (R182). This is the whole of taking an exception
on this core: it has no trap entry, no saved pc and no vector (R186), and no trap return (R187). -/
def State.raise (s : State) (c : ErrorCode) : State := { s with err := c.code, faulted := true }

/-- `ERR <- 0`, the end of every command that raised no fault; FAULTED keeps its value (R184). -/
def State.succeed (s : State) : State := { s with err := 0 }

/-- The first check that applies, in the order of the list (R183). -/
def firstFault : List (Bool × ErrorCode) → Option ErrorCode
  | [] => none
  | (true, c) :: _ => some c
  | (false, _) :: rest => firstFault rest

/-- A command: its checks, "every check is made before the command's first write" (R182), then its effect and
`ERR <- 0` (R70, R184). -/
def command (checks : List (Bool × ErrorCode)) (effect : State → State) (s : State) : Host.Outcome State Fault Refusal :=
  match firstFault checks with
  | some c => .next (s.raise c)
  | none => .next (effect s).succeed

/-! ## The checks -/

/-- Busy: the command is not allowed while `SESS = 1` (R70, R183). -/
def State.busyCheck (s : State) : Bool × ErrorCode := (s.sess, .busy)

/-- `CheckLengths`: the key length first, then the nonce length (R121). -/
def State.lengthChecks (s : State) : List (Bool × ErrorCode) :=
  [(decide (s.klen ≠ 32), .invalidKeyLength), (decide (s.nlen ≠ 12), .invalidNonceLength)]

/-- NoSession: a keystream byte is requested with `SESS = 0` (R163, R164). -/
def State.sessionCheck (s : State) : Bool × ErrorCode := (!s.sess, .noSession)

/-- KeystreamExhausted: `n` more bytes need a generation and the session has generated 2^32 blocks. For one byte the
condition on POS is `POS = 64`, for four it is `POS >= 61` (R163, R164, R167). -/
def State.exhaustionCheck (s : State) (n : Nat) : Bool × ErrorCode :=
  (decide (64 < s.pos.val + n) && decide (s.blks = Config.maxBlocks), .keystreamExhausted)

/-- `a, b, c, d` are pairwise distinct (R123). -/
def pairwiseDistinct (a b c d : Fin 16) : Bool :=
  decide (a ≠ b ∧ a ≠ c ∧ a ≠ d ∧ b ≠ c ∧ b ≠ d ∧ c ≠ d)

/-! ## Reset and the data output -/

/-- Every register takes its reset value (R211, R40). The host's side of the interface is no register and stays. -/
def State.resetRegisters (s : State) : State := { State.reset with din := s.din, inputs := s.inputs }

/-- `DOUT <- v` (R33). -/
def State.output (s : State) (v : Word) : State := { s with dout := v }

/-- The host's next event is taken off its list (R85). -/
def State.dropInput (s : State) (rest : List HostInput) : State := { s with inputs := rest }

/-- The host presents a command's DIN, and its event is taken off its list (R70, R85). -/
def State.accept (s : State) (din : Word) (rest : List HostInput) : State := { s with din := din, inputs := rest }

/-! ## Loading -/

/-- `KeyAppend(b)` (R100): an overlong key stores nothing more and its length stays 33. -/
def State.keyAppend (s : State) (b : Byte) : State :=
  if h : s.klen.val < 32 then { s with key := s.key.set s.klen.val b, klen := ⟨s.klen.val + 1, by omega⟩ }
  else { s with klen := 33 }

/-- `NonceAppend(b)` (R104): an overlong nonce stores nothing more and its length stays 13. -/
def State.nonceAppend (s : State) (b : Byte) : State :=
  if h : s.nlen.val < 12 then { s with nonce := s.nonce.set s.nlen.val b, nlen := ⟨s.nlen.val + 1, by omega⟩ }
  else { s with nlen := 13 }

/-! ## The working words -/

/-- `W <- f(W)`, for the rounds and the quarter-round. -/
def State.mapW (s : State) (f : Words → Words) : State := { s with w := f s.w }

/-! ## Generating a block and taking its bytes -/

/-- `Generate(ctr)` (R150): S is the initial state, W the final words, KS their bytes, and KSV is set. -/
def State.generate (s : State) (ctr : Word) : State :=
  let start := initState s.key s.nonce ctr
  let final := finalWords start
  { s with s := start, w := final, ks := serialize final, ksv := true }

/-- The first part of `NextKeyByte`, when `POS = 64`: `Generate(CTRN)`, then CTRN and BLKS count and `POS <- 0` (R161).
CTRN wraps silently (R166). -/
def State.nextBlock (s : State) : State :=
  { s.generate s.ctrn with ctrn := s.ctrn + 1, blks := s.blks + 1, pos := 0 }

/-- The second part of `NextKeyByte`, when a byte is in hand: `k <- KS[POS]; POS <- POS + 1` (R161). -/
def State.takeByte (s : State) (h : s.pos.val < 64) : Byte × State :=
  (s.ks[s.pos.val], { s with pos := ⟨s.pos.val + 1, by omega⟩ })

/-- `NextKeyByte` (R161): the next keystream byte, and the state after it. POS is below 64 or is 64. -/
def State.nextKeyByte (s : State) : Byte × State :=
  if h : s.pos.val < 64 then s.takeByte h else s.nextBlock.takeByte (show (0 : Fin 65).val < 64 by decide)

/-- `DOUT <- zext_32(p ^ NextKeyByte)` (R163). -/
def State.xorByte (s : State) (p : Byte) : State :=
  let r := s.nextKeyByte
  r.2.output ((p ^^^ r.1).setWidth 32)

/-- `DOUT[8k+7:8k] <- DIN[8k+7:8k] ^ NextKeyByte` for k = 0..3 in order, DOUT being written at the end (R164). -/
def State.xorWord (s : State) : State :=
  let r0 := s.nextKeyByte
  let r1 := r0.2.nextKeyByte
  let r2 := r1.2.nextKeyByte
  let r3 := r2.2.nextKeyByte
  r3.2.output (le4 (s.dinByte 0 ^^^ r0.1) (s.dinByte 1 ^^^ r1.1) (s.dinByte 2 ^^^ r2.1) (s.dinByte 3 ^^^ r3.1))

end Sys2Proof.Machine
end

