-- ==== Sys2Proof/Machine/Block.lean ====
section
/-! DEFINITION. The block commands (43_block.md): BLOCK, KSR. -/

namespace Sys2Proof.Machine

/-- BLOCK: `CheckLengths`, then `Generate(COUNTER)` (R151). -/
def execBlock (s : State) : Host.Outcome State Fault Refusal :=
  command (s.busyCheck :: s.lengthChecks) (fun s => s.generate s.counter) s

/-- KSR idx: word idx of KS to DOUT, allowed in a session; KS and POS are not touched (R152). -/
def execKsr (idx : Fin 16) (s : State) : Host.Outcome State Fault Refusal :=
  command [] (fun s => s.output (ksWord s.ks idx)) s

end Sys2Proof.Machine
end

