-- ==== Sys2Proof/Machine/Control.lean ====
section
/-! DEFINITION. The control commands (40_control.md): NOP, RST, RDR. All are allowed in a session. -/

namespace Sys2Proof.Machine

/-- NOP: nothing but `ERR <- 0` (R90). -/
def execNop (s : State) : Host.Outcome State Fault Refusal :=
  command [] id s

/-- RST: every register takes its reset value (R91). -/
def execRst (s : State) : Host.Outcome State Fault Refusal :=
  command [] State.resetRegisters s

/-- RDR idx: a control register to DOUT; an index above 4 is IllegalCommand (R92, R37). RDR 0 gives STATUS as it stood
before the command. -/
def execRdr (idx : Fin 16) (s : State) : Host.Outcome State Fault Refusal :=
  command [(decide (4 < idx.val), .illegalCommand)] (fun s => s.output (s.controlRegister idx)) s

end Sys2Proof.Machine
end

