-- ==== Sys2Proof/Machine/Load.lean ====
section
/-! DEFINITION. The load commands (41_load.md): KCLR, KB, KW, NCLR, NB, NW, CTRW. All fault with Busy in a session, and none
checks a length (R109). -/

namespace Sys2Proof.Machine

/-- KCLR: `KEY[j] <- 0` for every j, `KLEN <- 0` (R101). -/
def execKclr (s : State) : Host.Outcome State Fault Refusal :=
  command [s.busyCheck] (fun s => { s with key := Vector.replicate 32 0, klen := 0 }) s

/-- KB: `KeyAppend(DIN[7:0])` (R102). -/
def execKb (s : State) : Host.Outcome State Fault Refusal :=
  command [s.busyCheck] (fun s => s.keyAppend (s.dinByte 0)) s

/-- KW: `KeyAppend` of the four bytes of DIN, least significant first (R103). -/
def execKw (s : State) : Host.Outcome State Fault Refusal :=
  command [s.busyCheck]
    (fun s => (((s.keyAppend (s.dinByte 0)).keyAppend (s.dinByte 1)).keyAppend (s.dinByte 2)).keyAppend (s.dinByte 3)) s

/-- NCLR: `NONCE[j] <- 0` for every j, `NLEN <- 0` (R105). -/
def execNclr (s : State) : Host.Outcome State Fault Refusal :=
  command [s.busyCheck] (fun s => { s with nonce := Vector.replicate 12 0, nlen := 0 }) s

/-- NB: `NonceAppend(DIN[7:0])` (R106). -/
def execNb (s : State) : Host.Outcome State Fault Refusal :=
  command [s.busyCheck] (fun s => s.nonceAppend (s.dinByte 0)) s

/-- NW: `NonceAppend` of the four bytes of DIN, least significant first (R107). -/
def execNw (s : State) : Host.Outcome State Fault Refusal :=
  command [s.busyCheck]
    (fun s =>
      (((s.nonceAppend (s.dinByte 0)).nonceAppend (s.dinByte 1)).nonceAppend (s.dinByte 2)).nonceAppend (s.dinByte 3)) s

/-- CTRW: `COUNTER <- DIN` (R108). -/
def execCtrw (s : State) : Host.Outcome State Fault Refusal :=
  command [s.busyCheck] (fun s => { s with counter := s.din }) s

end Sys2Proof.Machine
end

