-- ==== Sys2Proof/Machine/Permutation.lean ====
section
/-! DEFINITION. The permutation commands (42_permutation.md): INIT, QR, COLR, DIAGR, DBLR, FFWD, WW, WR, SR. -/

namespace Sys2Proof.Machine

/-- INIT: `CheckLengths`, then `S <- InitState(COUNTER); W <- S` (R124). -/
def execInit (s : State) : Host.Outcome State Fault Refusal :=
  command (s.busyCheck :: s.lengthChecks)
    (fun s => { s with s := initState s.key s.nonce s.counter, w := initState s.key s.nonce s.counter }) s

/-- QR a, b, c, d: one quarter-round on W; indices that are not pairwise distinct are IndexAlias (R123). -/
def execQr (a b c d : Fin 16) (s : State) : Host.Outcome State Fault Refusal :=
  command [s.busyCheck, (!pairwiseDistinct a b c d, .indexAlias)] (fun s => s.mapW (quarterRound · a b c d)) s

/-- COLR: the four column quarter-rounds (R125). -/
def execColr (s : State) : Host.Outcome State Fault Refusal :=
  command [s.busyCheck] (fun s => s.mapW columnRound) s

/-- DIAGR: the four diagonal quarter-rounds (R126). -/
def execDiagr (s : State) : Host.Outcome State Fault Refusal :=
  command [s.busyCheck] (fun s => s.mapW diagonalRound) s

/-- DBLR: one double round (R127). -/
def execDblr (s : State) : Host.Outcome State Fault Refusal :=
  command [s.busyCheck] (fun s => s.mapW doubleRound) s

/-- FFWD: `W[i] <- W[i] + S[i]` for every i (R128). -/
def execFfwd (s : State) : Host.Outcome State Fault Refusal :=
  command [s.busyCheck] (fun s => s.mapW (feedForward · s.s)) s

/-- WW idx: `W[idx] <- DIN` (R129). -/
def execWw (idx : Fin 16) (s : State) : Host.Outcome State Fault Refusal :=
  command [s.busyCheck] (fun s => s.mapW (·.set idx s.din)) s

/-- WR idx: `DOUT <- W[idx]`, allowed in a session (R130). -/
def execWr (idx : Fin 16) (s : State) : Host.Outcome State Fault Refusal :=
  command [] (fun s => s.output s.w[idx]) s

/-- SR idx: `DOUT <- S[idx]`, allowed in a session (R131). -/
def execSr (idx : Fin 16) (s : State) : Host.Outcome State Fault Refusal :=
  command [] (fun s => s.output s.s[idx]) s

end Sys2Proof.Machine
end

