-- ==== Sys2Proof/Machine/Stream.lean ====
section
/-! DEFINITION. The stream commands (44_stream.md): SBEGIN, XB, XW, SEND. -/

namespace Sys2Proof.Machine

/-- SBEGIN: `CheckLengths`, then a session at COUNTER with no block generated and no byte in hand (R162). -/
def execSbegin (s : State) : Host.Outcome State Fault Refusal :=
  command (s.busyCheck :: s.lengthChecks) (fun s => { s with sess := true, ctrn := s.counter, blks := 0, pos := 64 }) s

/-- XB: `DOUT <- zext_32(DIN[7:0] ^ NextKeyByte)` (R163). -/
def execXb (s : State) : Host.Outcome State Fault Refusal :=
  command [s.sessionCheck, s.exhaustionCheck 1] (fun s => s.xorByte (s.dinByte 0)) s

/-- XW: the four bytes of DIN with four keystream bytes; its checks cover all four before any is taken (R164). -/
def execXw (s : State) : Host.Outcome State Fault Refusal :=
  command [s.sessionCheck, s.exhaustionCheck 4] State.xorWord s

/-- SEND: `SESS <- 0`; without a session it is a successful no-op (R165). -/
def execSend (s : State) : Host.Outcome State Fault Refusal :=
  command [] (fun s => { s with sess := false }) s

end Sys2Proof.Machine
end

