-- ==== Sys2Proof/Machine/Dispatch.lean ====
section
/-! DEFINITION. The meaning of each command (30_encoding.md R70, `Execute`): one arm per constructor of Instr. -/

namespace Sys2Proof.Machine

def exec (i : Instr) (s : State) : Host.Outcome State Fault Refusal :=
  match i with
  | .nop => Sys2Proof.Machine.execNop s
  | .rst => Sys2Proof.Machine.execRst s
  | .rdr idx => Sys2Proof.Machine.execRdr idx s
  | .kclr => Sys2Proof.Machine.execKclr s
  | .kb => Sys2Proof.Machine.execKb s
  | .kw => Sys2Proof.Machine.execKw s
  | .nclr => Sys2Proof.Machine.execNclr s
  | .nb => Sys2Proof.Machine.execNb s
  | .nw => Sys2Proof.Machine.execNw s
  | .ctrw => Sys2Proof.Machine.execCtrw s
  | .init => Sys2Proof.Machine.execInit s
  | .qr a b c d => Sys2Proof.Machine.execQr a b c d s
  | .colr => Sys2Proof.Machine.execColr s
  | .diagr => Sys2Proof.Machine.execDiagr s
  | .dblr => Sys2Proof.Machine.execDblr s
  | .ffwd => Sys2Proof.Machine.execFfwd s
  | .ww idx => Sys2Proof.Machine.execWw idx s
  | .wr idx => Sys2Proof.Machine.execWr idx s
  | .sr idx => Sys2Proof.Machine.execSr idx s
  | .block => Sys2Proof.Machine.execBlock s
  | .ksr idx => Sys2Proof.Machine.execKsr idx s
  | .sbegin => Sys2Proof.Machine.execSbegin s
  | .xb => Sys2Proof.Machine.execXb s
  | .xw => Sys2Proof.Machine.execXw s
  | .send => Sys2Proof.Machine.execSend s

end Sys2Proof.Machine
end

