-- ==== Sys2Proof/Machine/Issue.lean ====
section
/-! DEFINITION. One command transaction and one host event (30_encoding.md R70, 70_reset_and_hazards.md R210). -/

namespace Sys2Proof.Machine

/-- `Step(CMD, DIN)` (R70) once DIN is presented: decode, which may raise IllegalCommand (R77 to R79), then the command's
own meaning, which begins with its Busy check where it has one. -/
def runCommand (cmd : Word) (s : State) : Host.Outcome State Fault Refusal :=
  match decode cmd with
  | .error _ => .next (s.raise .illegalCommand)
  | .ok i => exec i s

/-- One event of the host: a pair (CMD, DIN) is run as a command (R70), RESET resets every register (R210, R211). -/
def runInput (e : HostInput) (rest : List HostInput) (s : State) : Host.Outcome State Fault Refusal :=
  match e with
  | .command cmd din => runCommand cmd (s.accept din rest)
  | .reset => .next (s.dropInput rest).resetRegisters

end Sys2Proof.Machine
end

