-- ==== Sys2Proof/Machine/Step.lean ====
section
/-! DEFINITION. One step of the machine: the host's next event. The core fetches nothing and has no program counter
(10_state.md R35): the list of the host is where the next command comes from (30_encoding.md R85, log entry 2). -/

namespace Sys2Proof.Machine

/-- The next event of the host's list is run; with none pending the core "holds its state and does nothing" (R195, log
entry 3). -/
def step (s : State) : Host.Outcome State Fault Refusal :=
  match s.inputs with
  | [] => .next s
  | e :: rest => runInput e rest s

/-- The state with a command word placed where the next step takes its command from: the pair of that CMD word, and the
DIN word (0 where the table gives it no bits), stands first on the host's list (log entry 2). -/
def State.withFetchWord (s : State) (nbits w : Nat) : State :=
  { s with inputs := .command (tableCmd nbits w) (tableDin nbits w) :: s.inputs }

end Sys2Proof.Machine
end

