-- ==== Sys2Proof/Safety.lean ====
section
/-! DEFINITION. The terms claims are stated in: a state after a fault, what a CMD word does at a step, sequences of
commands, the tables of the spec that claims compare the machine with, and the invariant of a safe run. Values are
spelled out here from the spec's own words, not through the operations of Machine. -/

namespace Sys2Proof.Safety

open Sys2Proof.Machine

/-- "ERR <- code; FAULTED <- 1; nothing else" (R182). -/
def faultState (s : State) (code : BitVec 4) : State := { s with err := code, faulted := true }

/-- "Every register takes the reset value" (R211, R40), register by register, and STATUS shows it. -/
def RegistersReset (s : State) : Prop :=
  (∀ i : Fin 16, s.w[i] = 0 ∧ s.s[i] = 0) ∧ (∀ j : Fin 64, s.ks[j] = 0) ∧ (∀ j : Fin 32, s.key[j] = 0) ∧
  (∀ j : Fin 12, s.nonce[j] = 0) ∧ s.klen = 0 ∧ s.nlen = 0 ∧ s.counter = 0 ∧ s.sess = false ∧ s.ctrn = 0 ∧
  s.blks = 0 ∧ s.pos = 64 ∧ s.ksv = false ∧ s.dout = 0 ∧ s.err = 0 ∧ s.faulted = false ∧ s.status = 0x40000000

/-! ## What a CMD word does (R71 to R78) -/

/-- The state in which the host issues (CMD, DIN) next. -/
def issuing (s : State) (cmd din : Word) (rest : List HostInput) : State :=
  { s with inputs := .command cmd din :: rest }

/-- The state in which that command executes. -/
def presented (s : State) (din : Word) (rest : List HostInput) : State := { s with din := din, inputs := rest }

/-- Format N: a word of this opcode runs `i` when `CMD[23:0]` is 0, and is IllegalCommand otherwise. -/
def WordN (opc : BitVec 8) (i : Instr) : Prop :=
  ∀ (s : State) (cmd din : Word) (rest : List HostInput), cmd.extractLsb' 24 8 = opc →
    step (issuing s cmd din rest) =
      if cmd.extractLsb' 0 24 = 0 then exec i (presented s din rest)
      else .next (faultState (presented s din rest) 3)

/-- Format I: a word of this opcode and index runs `f idx` when `CMD[23:4]` is 0, and is IllegalCommand otherwise. -/
def WordI (opc : BitVec 8) (f : Fin 16 → Instr) : Prop :=
  ∀ (s : State) (cmd din : Word) (rest : List HostInput) (idx : Fin 16), cmd.extractLsb' 24 8 = opc →
    (cmd.extractLsb' 0 4).toNat = idx.val →
    step (issuing s cmd din rest) =
      if cmd.extractLsb' 4 20 = 0 then exec (f idx) (presented s din rest)
      else .next (faultState (presented s din rest) 3)

/-- Format Q: the four indices are `CMD[23:20]`, `CMD[19:16]`, `CMD[15:12]`, `CMD[11:8]`, and `CMD[7:0]` must be 0. -/
def WordQ (opc : BitVec 8) (f : Fin 16 → Fin 16 → Fin 16 → Fin 16 → Instr) : Prop :=
  ∀ (s : State) (cmd din : Word) (rest : List HostInput) (a b c d : Fin 16), cmd.extractLsb' 24 8 = opc →
    (cmd.extractLsb' 20 4).toNat = a.val → (cmd.extractLsb' 16 4).toNat = b.val →
    (cmd.extractLsb' 12 4).toNat = c.val → (cmd.extractLsb' 8 4).toNat = d.val →
    step (issuing s cmd din rest) =
      if cmd.extractLsb' 0 8 = 0 then exec (f a b c d) (presented s din rest)
      else .next (faultState (presented s din rest) 3)

/-- Busy: while `SESS = 1` the command changes nothing but ERR and FAULTED, and the code is 5. -/
def BusyInSession (i : Instr) : Prop := ∀ s : State, s.sess = true → exec i s = .next (faultState s 5)

/-- `CheckLengths` (R121): outside a session a key length other than 32 is code 1; with the key right, a nonce length other
than 12 is code 2. -/
def ChecksLengths (i : Instr) : Prop :=
  ∀ s : State, s.sess = false →
    (s.klen ≠ 32 → exec i s = .next (faultState s 1)) ∧
    (s.klen = 32 → s.nlen ≠ 12 → exec i s = .next (faultState s 2))

/-! ## The opcode map (R76) -/

/-- The (match, mask) pairs of R76's table, in its order. -/
def opcodeRows : List (Word × Word) :=
  [(0x00000000, 0xFFFFFFFF), (0x01000000, 0xFFFFFFFF), (0x02000000, 0xFFFFFFF0)] ++
  [(0x10000000, 0xFFFFFFFF), (0x11000000, 0xFFFFFFFF), (0x12000000, 0xFFFFFFFF), (0x13000000, 0xFFFFFFFF),
    (0x14000000, 0xFFFFFFFF), (0x15000000, 0xFFFFFFFF), (0x16000000, 0xFFFFFFFF)] ++
  [(0x20000000, 0xFFFFFFFF), (0x21000000, 0xFF0000FF), (0x22000000, 0xFFFFFFFF), (0x23000000, 0xFFFFFFFF),
    (0x24000000, 0xFFFFFFFF), (0x25000000, 0xFFFFFFFF), (0x26000000, 0xFFFFFFF0), (0x27000000, 0xFFFFFFF0),
    (0x28000000, 0xFFFFFFF0)] ++
  [(0x30000000, 0xFFFFFFFF), (0x31000000, 0xFFFFFFF0)] ++
  [(0x40000000, 0xFFFFFFFF), (0x41000000, 0xFFFFFFFF), (0x42000000, 0xFFFFFFFF), (0x43000000, 0xFFFFFFFF)]

/-- The opcodes of R77's list: 0x03..0x0F, 0x17..0x1F, 0x29..0x2F, 0x32..0x3F and 0x44..0xFF. -/
def unassignedOpcode (n : Nat) : Bool :=
  (decide (0x03 ≤ n) && decide (n ≤ 0x0F)) || (decide (0x17 ≤ n) && decide (n ≤ 0x1F)) ||
  (decide (0x29 ≤ n) && decide (n ≤ 0x2F)) || (decide (0x32 ≤ n) && decide (n ≤ 0x3F)) ||
  (decide (0x44 ≤ n) && decide (n ≤ 0xFF))

/-! ## The cipher, in the spec's own terms -/

/-- The layout of the initial state (R22, R23, R120): constants, key words, counter word, nonce words; byte k of a key or
nonce word is bits 8k+7..8k, the first byte least significant. -/
def InitLayout (key : Vector Byte 32) (nonce : Vector Byte 12) (ctr : Word) (v : Words) : Prop :=
  v[0] = 0x61707865 ∧ v[1] = 0x3320646E ∧ v[2] = 0x79622D32 ∧ v[3] = 0x6B206574 ∧
  (∀ (j : Fin 8) (k : Fin 4), v[4 + j.val].extractLsb' (8 * k.val) 8 = key[4 * j.val + k.val]) ∧
  v[12] = ctr ∧
  (∀ (j : Fin 3) (k : Fin 4), v[13 + j.val].extractLsb' (8 * k.val) 8 = nonce[4 * j.val + k.val])

/-- `v'` is `v` after the quarter-round at a, b, c, d (R122): the four lines in order, every other word unchanged. -/
def QuarterRounded (v v' : Words) (a b c d : Fin 16) : Prop :=
  let a1 := v[a] + v[b]
  let d1 := (v[d] ^^^ a1).rotateLeft 16
  let c1 := v[c] + d1
  let b1 := (v[b] ^^^ c1).rotateLeft 12
  let a2 := a1 + b1
  let d2 := (d1 ^^^ a2).rotateLeft 8
  let c2 := c1 + d2
  let b2 := (b1 ^^^ c2).rotateLeft 7
  v'[a] = a2 ∧ v'[b] = b2 ∧ v'[c] = c2 ∧ v'[d] = d2 ∧
  ∀ i : Fin 16, i ≠ a → i ≠ b → i ≠ c → i ≠ d → v'[i] = v[i]

/-! ## Sequences of commands -/

/-- The commands in order, each answering a next state, with the same DIN. -/
def execAll : List Instr → State → Option State
  | [], s => some s
  | i :: is, s =>
    match exec i s with
    | .next t => execAll is t
    | .fault _ => none
    | .refused _ => none

/-- One command issued once for each DIN word, in order. -/
def feed (i : Instr) : List Word → State → Option State
  | [], s => some s
  | d :: ds, s =>
    match exec i { s with din := d } with
    | .next t => feed i ds t
    | .fault _ => none
    | .refused _ => none

/-- XB for each byte in order, the host collecting `DOUT[7:0]` of each (R87); none as soon as one faults. -/
def streamBytes : List Byte → State → Option (List Byte × State)
  | [], s => some ([], s)
  | p :: ps, s =>
    match exec .xb { s with din := p.setWidth 32 } with
    | .next t => if t.err = 0 then (streamBytes ps t).map fun r => (t.dout.extractLsb' 0 8 :: r.1, r.2) else none
    | .fault _ => none
    | .refused _ => none

/-- LOAD (R86): KCLR, NCLR, eight KW, three NW, CTRW. -/
def loadInputs (keyWords : Vector Word 8) (nonceWords : Vector Word 3) (ctr : Word) : List HostInput :=
  [.command 0x10000000 0, .command 0x13000000 0] ++ keyWords.toList.map (.command 0x12000000) ++
    nonceWords.toList.map (.command 0x15000000) ++ [.command 0x16000000 ctr]

/-- The column quarter-rounds (R125). -/
def columns : List Instr := [.qr 0 4 8 12, .qr 1 5 9 13, .qr 2 6 10 14, .qr 3 7 11 15]

/-- The diagonal quarter-rounds (R126). -/
def diagonals : List Instr := [.qr 0 5 10 15, .qr 1 6 11 12, .qr 2 7 8 13, .qr 3 4 9 14]

/-- `sv`, `wv`, `kv` are S, W and KS after `Generate(ctr)` (R150): the initial state; ten DBLR on it and the feed-forward;
the bytes of the final words, little-endian per word. -/
def BlockOf (key : Vector Byte 32) (nonce : Vector Byte 12) (ctr : Word) (sv wv : Words) (kv : Vector Byte 64) : Prop :=
  InitLayout key nonce ctr sv ∧
  (∃ u, execAll (List.replicate 10 .dblr) { State.reset with w := sv } = some u ∧
    ∀ i : Fin 16, wv[i] = u.w[i] + sv[i]) ∧
  ∀ (i : Fin 16) (k : Fin 4), kv[4 * i.val + k.val] = wv[i].extractLsb' (8 * k.val) 8

/-! ## The spec's tables of commands -/

/-- "Allowed in session" (R76, R181). -/
def allowedInSession : Instr → Bool
  | .nop => true
  | .rst => true
  | .rdr _ => true
  | .kclr => false
  | .kb => false
  | .kw => false
  | .nclr => false
  | .nb => false
  | .nw => false
  | .ctrw => false
  | .init => false
  | .qr _ _ _ _ => false
  | .colr => false
  | .diagr => false
  | .dblr => false
  | .ffwd => false
  | .ww _ => false
  | .wr _ => true
  | .sr _ => true
  | .block => false
  | .ksr _ => true
  | .sbegin => false
  | .xb => true
  | .xw => true
  | .send => true

/-- The code a well-formed command reports, by the check order of R183 and the causes of R180; 0 is success. -/
def reportedCode (i : Instr) (s : State) : BitVec 4 :=
  let busy := !allowedInSession i && s.sess
  let noSession := (i == .xb || i == .xw) && !s.sess
  let aliased := match i with
    | .qr a b c d => a == b || a == c || a == d || b == c || b == d || c == d
    | _ => false
  let builds := i == .init || i == .block || i == .sbegin
  let exhausted := ((i == .xb && s.pos == 64) || (i == .xw && decide (61 ≤ s.pos.val))) && s.blks == 0x100000000
  if busy then 5
  else if noSession then 6
  else if aliased then 4
  else if builds && s.klen != 32 then 1
  else if builds && s.nlen != 12 then 2
  else if exhausted then 7
  else 0

/-- The registers of R39's access matrix, in its rows. -/
inductive Row where
  | w | s | ks | key | nonce | counter | sess | ctrnBlks | pos | ksv | dout
  deriving DecidableEq, Repr

/-- The rows whose column "Written by" names the command (R39). -/
def rowsWritten : Instr → List Row
  | .nop => []
  | .rst => [.w, .s, .ks, .key, .nonce, .counter, .sess, .ctrnBlks, .pos, .ksv, .dout]
  | .rdr _ => [.dout]
  | .kclr => [.key]
  | .kb => [.key]
  | .kw => [.key]
  | .nclr => [.nonce]
  | .nb => [.nonce]
  | .nw => [.nonce]
  | .ctrw => [.counter]
  | .init => [.w, .s]
  | .qr _ _ _ _ => [.w]
  | .colr => [.w]
  | .diagr => [.w]
  | .dblr => [.w]
  | .ffwd => [.w]
  | .ww _ => [.w]
  | .wr _ => [.dout]
  | .sr _ => [.dout]
  | .block => [.w, .s, .ks, .ksv]
  | .ksr _ => [.dout]
  | .sbegin => [.sess, .ctrnBlks, .pos]
  | .xb => [.w, .s, .ks, .ctrnBlks, .pos, .ksv, .dout]
  | .xw => [.w, .s, .ks, .ctrnBlks, .pos, .ksv, .dout]
  | .send => [.sess]

/-- The command is one of the row's writers (R39). -/
def writtenBy (r : Row) (i : Instr) : Bool := (rowsWritten i).contains r

/-- The bits of DIN that a command reads (R76's column "DIN read"). -/
def dinMask : Instr → Word
  | .nop => 0
  | .rst => 0
  | .rdr _ => 0
  | .kclr => 0
  | .kb => 0xFF
  | .kw => 0xFFFFFFFF
  | .nclr => 0
  | .nb => 0xFF
  | .nw => 0xFFFFFFFF
  | .ctrw => 0xFFFFFFFF
  | .init => 0
  | .qr _ _ _ _ => 0
  | .colr => 0
  | .diagr => 0
  | .dblr => 0
  | .ffwd => 0
  | .ww _ => 0xFFFFFFFF
  | .wr _ => 0
  | .sr _ => 0
  | .block => 0
  | .ksr _ => 0
  | .sbegin => 0
  | .xb => 0xFF
  | .xw => 0xFFFFFFFF
  | .send => 0

/-! ## The invariant of a safe run -/

/-- How many keystream bytes the session has used: byte `t` of its input is the next one (R160). -/
def sessionOffset (s : State) : Nat := 64 * s.blks.toNat + s.pos.val - 64

/-- What holds of the core from reset on. -/
structure Inv (s : State) : Prop where
  /-- BLKS is 0..2^32 (R30). -/
  blks_le : s.blks.toNat ≤ 2 ^ 32
  /-- ERR is 0..7 (R180, I13). -/
  err_le : s.err.toNat ≤ 7
  /-- A code in ERR is recorded in FAULTED (R182, R185). -/
  err_faulted : s.err ≠ 0 → s.faulted = true
  /-- Key bytes that were not appended are 0 (R40, R100, R101). -/
  key_tail : ∀ j : Fin 32, s.klen.val ≤ j.val → s.key[j] = 0
  /-- Nonce bytes that were not appended are 0 (R40, R104, R105). -/
  nonce_tail : ∀ j : Fin 12, s.nlen.val ≤ j.val → s.nonce[j] = 0
  /-- With `KSV = 0`, KS holds its reset value (R32, R152). -/
  ks_unset : s.ksv = false → s.ks = Vector.replicate 64 0
  /-- Between commands POS is never 0: a generation sets it to 0 and its first byte is taken at once (R161). -/
  pos_ne_zero : s.pos.val ≠ 0
  /-- A byte in hand is a byte of a generated block (R31, R32). -/
  pos_ksv : s.pos.val < 64 → s.ksv = true
  /-- Without a block generated since SBEGIN no byte is in hand (R31, R162). -/
  fresh : s.blks = 0 → s.pos = 64
  /-- A session runs with a full key and nonce (R162, R217). -/
  session_lengths : s.sess = true → s.klen = 32 ∧ s.nlen = 12
  /-- In a session CTRN is COUNTER and the blocks generated so far, modulo 2^32 (R160, R166). -/
  session_counter : s.sess = true → s.ctrn = s.counter + s.blks.setWidth 32
  /-- In a session that has generated, S, W and KS are those of the block before CTRN (R160, R161). -/
  session_block : s.sess = true → s.blks ≠ 0 →
    s.s = initState s.key s.nonce (s.ctrn - 1) ∧ s.w = finalWords s.s ∧
    s.ks = keystreamBlock s.key s.nonce (s.ctrn - 1)

end Sys2Proof.Safety
end

