-- ==== Sys2Proof/Certificates/Slice0/Obligations.lean ====
section
/-! DEFINITION. The statements for the provers. Each docstring names the rule of spec/ that the statement formalises. -/

open Sys2Proof Sys2Proof.Machine Sys2Proof.Safety

/-! ## Encoding -/

/-- Every well-formed command decodes back from its encoding (R83, R71 to R79). -/
def Obligations.DecodeOfEncodeIsTheCommand : Prop :=
  ∀ i : Instr, i.wellFormed = true → decode (encode i) = .ok i

/-- Every word that decodes is the encoding of a well-formed command, bit for bit (R78, R79, R83). -/
def Obligations.EncodeOfDecodeIsTheWord : Prop :=
  ∀ (cmd : Word) (i : Instr), decode cmd = .ok i → i.wellFormed = true ∧ encode i = cmd

/-- A word decodes exactly when it matches a row of the opcode map, and for RDR's row its index is at most 4 (R76, R78,
R79). -/
def Obligations.DecodeAcceptsExactlyTheOpcodeMap : Prop :=
  ∀ cmd : Word, (∃ i, decode cmd = .ok i) ↔
    (∃ row ∈ opcodeRows, cmd &&& row.2 = row.1) ∧ (cmd &&& 0xFFFFFFF0 = 0x02000000 → cmd.extractLsb' 0 4 ≤ 4)

/-- "The matches are disjoint because the OPC byte differs" (R76): no word matches two rows. -/
def Obligations.OpcodeRowsAreDisjoint : Prop :=
  ∀ (cmd : Word), ∀ r ∈ opcodeRows, ∀ q ∈ opcodeRows, cmd &&& r.2 = r.1 → cmd &&& q.2 = q.1 → r = q

/-- Words written out in the spec decode to the command they stand for (R82, R83, R84, R90, R108). -/
def Obligations.SpecWordsDecode : Prop :=
  decode 0x00000000 = .ok .nop ∧ decode 0x16000000 = .ok .ctrw ∧ decode 0x30000000 = .ok .block ∧
  decode 0x12000000 = .ok .kw ∧ decode 0x3100000F = .ok (.ksr 15) ∧ decode 0x26000003 = .ok (.ww 3) ∧
  decode 0x21048C00 = .ok (.qr 0 4 8 12) ∧ decode 0x21349E00 = .ok (.qr 3 4 9 14) ∧
  decode 0x43000000 = .ok .send ∧ decode 0x02000004 = .ok (.rdr 4)

/-- A step whose next event is a pair (CMD, DIN) with a CMD that decodes runs that command, with DIN presented and the
event taken off the host's list (R70, R85). -/
def Obligations.StepRunsTheDecodedCommand : Prop :=
  ∀ (s : State) (cmd din : Word) (rest : List HostInput) (i : Instr),
    s.inputs = .command cmd din :: rest → decode cmd = .ok i →
    step s = exec i { s with din := din, inputs := rest }

/-- An unassigned opcode is IllegalCommand (3) and changes nothing else, in a session or not (R77, R182). -/
def Obligations.UnassignedOpcodeIsIllegal : Prop :=
  ∀ (s : State) (cmd din : Word) (rest : List HostInput),
    unassignedOpcode (cmd.extractLsb' 24 8).toNat = true →
    step (issuing s cmd din rest) = .next (faultState (presented s din rest) 3)

/-- A word that matches no row of the opcode map is IllegalCommand: an assigned opcode with a reserved bit set among
them (R78). -/
def Obligations.UnmatchedWordIsIllegal : Prop :=
  ∀ (s : State) (cmd din : Word) (rest : List HostInput),
    (∀ row ∈ opcodeRows, cmd &&& row.2 ≠ row.1) →
    step (issuing s cmd din rest) = .next (faultState (presented s din rest) 3)

/-! ## The host's events and reset -/

/-- "Between commands it holds its state and does nothing" (R195); the idle step is the model's form of it (log entry 3). -/
def Obligations.IdleStepHoldsTheState : Prop :=
  ∀ s : State, s.inputs = [] → step s = .next s

/-- The RESET input gives every register its reset value, in one step and from any state, and the RST command has the same
effect (R210, R211, R40). The host's list and DIN are no registers (log entry 1). -/
def Obligations.ResetInputAndRstResetEveryRegister : Prop :=
  ∀ (s : State) (rest : List HostInput), ∃ t,
    step { s with inputs := .reset :: rest } = .next t ∧ exec .rst { s with inputs := rest } = .next t ∧
    RegistersReset t ∧ t.din = s.din ∧ t.inputs = rest

/-- The state after reset has the reset values (R40). -/
def Obligations.ResetValues : Prop := RegistersReset State.reset

/-- Every field of STATUS shows its register, and the reserved bits 7, 15:14, 23:20 and 31 are 0 (R34). -/
def Obligations.StatusShowsItsFields : Prop :=
  ∀ s : State,
    s.status.extractLsb' 0 4 = s.err ∧ (s.status.extractLsb' 4 1 = 1 ↔ s.faulted = true) ∧
    (s.status.extractLsb' 5 1 = 1 ↔ s.sess = true) ∧ (s.status.extractLsb' 6 1 = 1 ↔ s.ksv = true) ∧
    s.status.extractLsb' 7 1 = 0 ∧ (s.status.extractLsb' 8 6).toNat = s.klen.val ∧
    s.status.extractLsb' 14 2 = 0 ∧ (s.status.extractLsb' 16 4).toNat = s.nlen.val ∧
    s.status.extractLsb' 20 4 = 0 ∧ (s.status.extractLsb' 24 7).toNat = s.pos.val ∧ s.status.extractLsb' 31 1 = 0

/-! ## Control commands -/

/-- NOP (R90): its word, and nothing but `ERR <- 0`; allowed in a session. -/
def Obligations.NopRule : Prop :=
  WordN 0x00 .nop ∧ ∀ s : State, exec .nop s = .next { s with err := 0 }

/-- RST (R91): its word; every register at its reset value, in a session or not, just as the RESET input does; and no other
command clears FAULTED. -/
def Obligations.RstRule : Prop :=
  WordN 0x01 .rst ∧
  (∀ s : State, ∃ t, exec .rst s = .next t ∧ RegistersReset t ∧
    step { s with inputs := .reset :: s.inputs } = .next t) ∧
  ∀ (i : Instr) (s t : State), exec i s = .next t → s.faulted = true → t.faulted = false → i = .rst

/-- RDR (R92, R37): its word; the five registers, STATUS as it stood before the command; IllegalCommand for an index of
5..15, at decode as in the meaning; allowed in a session. `BLKS[32]` is 1 only at exactly 2^32 blocks. -/
def Obligations.RdrRule : Prop :=
  (∀ (s : State) (cmd din : Word) (rest : List HostInput) (idx : Fin 16), cmd.extractLsb' 24 8 = 0x02 →
    (cmd.extractLsb' 0 4).toNat = idx.val →
    step (issuing s cmd din rest) =
      if cmd.extractLsb' 4 20 = 0 ∧ idx.val ≤ 4 then exec (.rdr idx) (presented s din rest)
      else .next (faultState (presented s din rest) 3)) ∧
  ∀ s : State,
    exec (.rdr 0) s = .next { s with dout := s.status, err := 0 } ∧
    exec (.rdr 1) s = .next { s with dout := s.counter, err := 0 } ∧
    exec (.rdr 2) s = .next { s with dout := s.ctrn, err := 0 } ∧
    exec (.rdr 3) s = .next { s with dout := s.blks.setWidth 32, err := 0 } ∧
    exec (.rdr 4) s = .next { s with dout := BitVec.ofNat 32 (s.blks.toNat / 2 ^ 32), err := 0 } ∧
    (s.blks.toNat ≤ 2 ^ 32 → ∀ t, exec (.rdr 4) s = .next t → (t.dout = 1 ↔ s.blks.toNat = 2 ^ 32)) ∧
    ∀ idx : Fin 16, 4 < idx.val → exec (.rdr idx) s = .next (faultState s 3)

/-! ## Load commands -/

/-- KCLR (R101). -/
def Obligations.KclrRule : Prop :=
  WordN 0x10 .kclr ∧ BusyInSession .kclr ∧
  ∀ s : State, s.sess = false →
    exec .kclr s = .next { s with key := Vector.replicate 32 0, klen := 0, err := 0 }

/-- KB (R102, R100): `DIN[7:0]` is stored at KLEN, which counts; from 32 on nothing is stored and KLEN is 33. -/
def Obligations.KbRule : Prop :=
  WordN 0x11 .kb ∧ BusyInSession .kb ∧
  ∀ s : State, s.sess = false →
    (s.klen.val < 32 → ∃ t, exec .kb s = .next t ∧ t.klen.val = s.klen.val + 1 ∧
      (∀ j : Fin 32, t.key[j] = if j.val = s.klen.val then s.din.extractLsb' 0 8 else s.key[j]) ∧
      t = { s with key := t.key, klen := t.klen, err := 0 }) ∧
    (32 ≤ s.klen.val → exec .kb s = .next { s with klen := 33, err := 0 })

/-- KW (R103, R100): the bytes of DIN, least significant first, are stored from KLEN on as far as byte 31, and KLEN counts
four up to 33. -/
def Obligations.KwRule : Prop :=
  WordN 0x12 .kw ∧ BusyInSession .kw ∧
  ∀ s : State, s.sess = false → ∃ t, exec .kw s = .next t ∧ t.klen.val = min (s.klen.val + 4) 33 ∧
    (∀ j : Fin 32, t.key[j] =
      if s.klen.val ≤ j.val ∧ j.val < s.klen.val + 4 then s.din.extractLsb' (8 * (j.val - s.klen.val)) 8
      else s.key[j]) ∧
    t = { s with key := t.key, klen := t.klen, err := 0 }

/-- NCLR (R105). -/
def Obligations.NclrRule : Prop :=
  WordN 0x13 .nclr ∧ BusyInSession .nclr ∧
  ∀ s : State, s.sess = false →
    exec .nclr s = .next { s with nonce := Vector.replicate 12 0, nlen := 0, err := 0 }

/-- NB (R106, R104): `DIN[7:0]` is stored at NLEN, which counts; from 12 on nothing is stored and NLEN is 13. -/
def Obligations.NbRule : Prop :=
  WordN 0x14 .nb ∧ BusyInSession .nb ∧
  ∀ s : State, s.sess = false →
    (s.nlen.val < 12 → ∃ t, exec .nb s = .next t ∧ t.nlen.val = s.nlen.val + 1 ∧
      (∀ j : Fin 12, t.nonce[j] = if j.val = s.nlen.val then s.din.extractLsb' 0 8 else s.nonce[j]) ∧
      t = { s with nonce := t.nonce, nlen := t.nlen, err := 0 }) ∧
    (12 ≤ s.nlen.val → exec .nb s = .next { s with nlen := 13, err := 0 })

/-- NW (R107, R104): the bytes of DIN, least significant first, are stored from NLEN on as far as byte 11, and NLEN counts
four up to 13. -/
def Obligations.NwRule : Prop :=
  WordN 0x15 .nw ∧ BusyInSession .nw ∧
  ∀ s : State, s.sess = false → ∃ t, exec .nw s = .next t ∧ t.nlen.val = min (s.nlen.val + 4) 13 ∧
    (∀ j : Fin 12, t.nonce[j] =
      if s.nlen.val ≤ j.val ∧ j.val < s.nlen.val + 4 then s.din.extractLsb' (8 * (j.val - s.nlen.val)) 8
      else s.nonce[j]) ∧
    t = { s with nonce := t.nonce, nlen := t.nlen, err := 0 }

/-- CTRW (R108): COUNTER is DIN, any word; CTRN is not touched. -/
def Obligations.CtrwRule : Prop :=
  WordN 0x16 .ctrw ∧ BusyInSession .ctrw ∧
  ∀ s : State, s.sess = false → exec .ctrw s = .next { s with counter := s.din, err := 0 }

/-- A load without KCLR or NCLR first makes the length wrong, and the next INIT, BLOCK or SBEGIN faults with the length's
code (R215). -/
def Obligations.SecondLoadWithoutClearFaults : Prop :=
  ∀ (s t : State), s.sess = false → s.klen = 32 →
    ((exec .kb s = .next t ∨ exec .kw s = .next t) → t.klen = 33 ∧
      ∀ i : Instr, i = .init ∨ i = .block ∨ i = .sbegin → exec i t = .next (faultState t 1)) ∧
    (s.nlen = 12 → (exec .nb s = .next t ∨ exec .nw s = .next t) → t.nlen = 13 ∧
      ∀ i : Instr, i = .init ∨ i = .block ∨ i = .sbegin → exec i t = .next (faultState t 2))

/-! ## Permutation commands -/

/-- INIT (R124, R120, R121): the lengths are checked; then S is the initial state at COUNTER and W its copy. -/
def Obligations.InitRule : Prop :=
  WordN 0x20 .init ∧ BusyInSession .init ∧ ChecksLengths .init ∧
  ∀ s : State, s.sess = false → s.klen = 32 → s.nlen = 12 →
    ∃ t, exec .init s = .next t ∧ InitLayout s.key s.nonce s.counter t.s ∧ t = { s with s := t.s, w := t.s, err := 0 }

/-- QR (R123, R122): IndexAlias for indices that are not pairwise distinct, at any values of W; the quarter-round on the
four words otherwise, the other twelve unchanged. -/
def Obligations.QrRule : Prop :=
  WordQ 0x21 .qr ∧ (∀ a b c d : Fin 16, BusyInSession (.qr a b c d)) ∧
  ∀ (s : State) (a b c d : Fin 16), s.sess = false →
    ((a = b ∨ a = c ∨ a = d ∨ b = c ∨ b = d ∨ c = d) → exec (.qr a b c d) s = .next (faultState s 4)) ∧
    (a ≠ b → a ≠ c → a ≠ d → b ≠ c → b ≠ d → c ≠ d →
      ∃ t, exec (.qr a b c d) s = .next t ∧ QuarterRounded s.w t.w a b c d ∧ t = { s with w := t.w, err := 0 })

/-- COLR is the four column QR commands in order (R125). -/
def Obligations.ColrRule : Prop :=
  WordN 0x22 .colr ∧ BusyInSession .colr ∧
  ∀ s : State, s.sess = false →
    ∃ t, execAll columns s = some t ∧ exec .colr s = .next t ∧ t = { s with w := t.w, err := 0 }

/-- DIAGR is the four diagonal QR commands in order (R126). -/
def Obligations.DiagrRule : Prop :=
  WordN 0x23 .diagr ∧ BusyInSession .diagr ∧
  ∀ s : State, s.sess = false →
    ∃ t, execAll diagonals s = some t ∧ exec .diagr s = .next t ∧ t = { s with w := t.w, err := 0 }

/-- DBLR is the eight QR commands in order (R127, R84), and COLR followed by DIAGR. -/
def Obligations.DblrRule : Prop :=
  WordN 0x24 .dblr ∧ BusyInSession .dblr ∧
  ∀ s : State, s.sess = false →
    ∃ t, execAll (columns ++ diagonals) s = some t ∧ execAll [.colr, .diagr] s = some t ∧ exec .dblr s = .next t ∧
      t = { s with w := t.w, err := 0 }

/-- FFWD (R128): S is added to W word by word, modulo 2^32. -/
def Obligations.FfwdRule : Prop :=
  WordN 0x25 .ffwd ∧ BusyInSession .ffwd ∧
  ∀ s : State, s.sess = false →
    ∃ t, exec .ffwd s = .next t ∧ (∀ i : Fin 16, t.w[i] = s.w[i] + s.s[i]) ∧ t = { s with w := t.w, err := 0 }

/-- WW (R129): one word of W is DIN. -/
def Obligations.WwRule : Prop :=
  WordI 0x26 .ww ∧ (∀ idx : Fin 16, BusyInSession (.ww idx)) ∧
  ∀ (s : State) (idx : Fin 16), s.sess = false →
    ∃ t, exec (.ww idx) s = .next t ∧ (∀ i : Fin 16, t.w[i] = if i = idx then s.din else s.w[i]) ∧
      t = { s with w := t.w, err := 0 }

/-- WR (R130): a word of W to DOUT, in a session or not. -/
def Obligations.WrRule : Prop :=
  WordI 0x27 .wr ∧ ∀ (s : State) (idx : Fin 16), exec (.wr idx) s = .next { s with dout := s.w[idx], err := 0 }

/-- SR (R131): a word of S to DOUT, in a session or not. -/
def Obligations.SrRule : Prop :=
  WordI 0x28 .sr ∧ ∀ (s : State) (idx : Fin 16), exec (.sr idx) s = .next { s with dout := s.s[idx], err := 0 }

/-- Quarter-rounds on disjoint words commute: "their order within COLR does not change the result" (R125, R126). -/
def Obligations.DisjointQuarterRoundsCommute : Prop :=
  ∀ (s : State) (a b c d a' b' c' d' : Fin 16), s.sess = false → [a, b, c, d, a', b', c', d'].Nodup →
    ∃ t, execAll [.qr a b c d, .qr a' b' c' d'] s = some t ∧ execAll [.qr a' b' c' d', .qr a b c d] s = some t

/-! ## Block commands -/

/-- BLOCK (R151, R150): the lengths are checked; then S, W and KS are those of the block at COUNTER and KSV is set; COUNTER
and the session's registers are not touched. -/
def Obligations.BlockRule : Prop :=
  WordN 0x30 .block ∧ BusyInSession .block ∧ ChecksLengths .block ∧
  ∀ s : State, s.sess = false → s.klen = 32 → s.nlen = 12 →
    ∃ t, exec .block s = .next t ∧ BlockOf s.key s.nonce s.counter t.s t.w t.ks ∧
      t = { s with s := t.s, w := t.w, ks := t.ks, ksv := true, err := 0 }

/-- KSR (R152): four bytes of KS, the first least significant, to DOUT; POS is not touched; in a session or not. -/
def Obligations.KsrRule : Prop :=
  WordI 0x31 .ksr ∧
  ∀ (s : State) (idx : Fin 16), ∃ t, exec (.ksr idx) s = .next t ∧
    (∀ k : Fin 4, t.dout.extractLsb' (8 * k.val) 8 = s.ks[4 * idx.val + k.val]) ∧ t = { s with dout := t.dout, err := 0 }

/-- "Right after a Generate, KSR i equals the final word W[i]" (R152, R52): after BLOCK, KSR and WR answer the same state. -/
def Obligations.KsrShowsTheFinalWords : Prop :=
  ∀ (s t : State) (idx : Fin 16), exec .block s = .next t → t.err = 0 → exec (.ksr idx) t = exec (.wr idx) t

/-- The result of a generation depends only on KEY, NONCE and the counter (R150). -/
def Obligations.BlockDependsOnlyOnKeyNonceAndCounter : Prop :=
  ∀ (s1 s2 t1 t2 : State), s1.key = s2.key → s1.nonce = s2.nonce → s1.counter = s2.counter →
    exec .block s1 = .next t1 → exec .block s2 = .next t2 → t1.err = 0 → t2.err = 0 →
    t1.ks = t2.ks ∧ t1.w = t2.w ∧ t1.s = t2.s

/-- PERMUTE, that is INIT, ten DBLR and FFWD, "leaves W and S exactly as BLOCK does, but does not write KS or KSV" (R88). -/
def Obligations.StepwisePermutationEqualsBlock : Prop :=
  ∀ s : State, s.sess = false → s.klen = 32 → s.nlen = 12 →
    ∃ t u, execAll ([.init] ++ List.replicate 10 .dblr ++ [.ffwd]) s = some t ∧ exec .block s = .next u ∧
      t = { s with w := u.w, s := u.s, err := 0 }

/-! ## Stream commands -/

/-- SBEGIN (R162): the lengths are checked; then a session at COUNTER with no block generated and no byte in hand. -/
def Obligations.SbeginRule : Prop :=
  WordN 0x40 .sbegin ∧ BusyInSession .sbegin ∧ ChecksLengths .sbegin ∧
  ∀ s : State, s.sess = false → s.klen = 32 → s.nlen = 12 →
    exec .sbegin s = .next { s with sess := true, ctrn := s.counter, blks := 0, pos := 64, err := 0 }

/-- XB (R163, R161, R166, R167): NoSession, KeystreamExhausted, a byte in hand, and a generation first at `POS = 64`. -/
def Obligations.XbRule : Prop :=
  WordN 0x41 .xb ∧
  (∀ s : State, s.sess = false → exec .xb s = .next (faultState s 6)) ∧
  (∀ s : State, s.sess = true → s.pos = 64 → s.blks = 0x100000000 → exec .xb s = .next (faultState s 7)) ∧
  (∀ s : State, s.sess = true → ∀ h : s.pos.val < 64, ∃ t, exec .xb s = .next t ∧ t.pos.val = s.pos.val + 1 ∧
    t = { s with dout := (s.din.extractLsb' 0 8 ^^^ s.ks[s.pos.val]).setWidth 32, pos := t.pos, err := 0 }) ∧
  (∀ s : State, s.sess = true → s.pos = 64 → s.blks ≠ 0x100000000 → ∃ t, exec .xb s = .next t ∧
    BlockOf s.key s.nonce s.ctrn t.s t.w t.ks ∧
    t = { s with
      s := t.s, w := t.w, ks := t.ks, ksv := true, ctrn := s.ctrn + 1, blks := s.blks + 1, pos := 1,
      dout := (s.din.extractLsb' 0 8 ^^^ t.ks[0]).setWidth 32, err := 0 })

/-- XW (R164, R161, R166, R167): NoSession, KeystreamExhausted before any byte is used, four bytes of the block in hand, and
a generation where the four bytes reach past it. Byte k of DOUT is byte k of DIN with keystream byte k. -/
def Obligations.XwRule : Prop :=
  WordN 0x42 .xw ∧
  (∀ s : State, s.sess = false → exec .xw s = .next (faultState s 6)) ∧
  (∀ s : State, s.sess = true → 61 ≤ s.pos.val → s.blks = 0x100000000 → exec .xw s = .next (faultState s 7)) ∧
  (∀ s : State, s.sess = true → s.pos.val ≤ 60 → ∃ t, exec .xw s = .next t ∧ t.pos.val = s.pos.val + 4 ∧
    (∀ k : Fin 4, t.dout.extractLsb' (8 * k.val) 8 =
      s.din.extractLsb' (8 * k.val) 8 ^^^ s.ks[(s.pos.val + k.val) % 64]) ∧
    t = { s with dout := t.dout, pos := t.pos, err := 0 }) ∧
  (∀ s : State, s.sess = true → 61 ≤ s.pos.val → s.blks ≠ 0x100000000 → ∃ t, exec .xw s = .next t ∧
    BlockOf s.key s.nonce s.ctrn t.s t.w t.ks ∧ t.pos.val = s.pos.val + 4 - 64 ∧
    (∀ k : Fin 4, t.dout.extractLsb' (8 * k.val) 8 = s.din.extractLsb' (8 * k.val) 8 ^^^
      (if s.pos.val + k.val < 64 then s.ks else t.ks)[(s.pos.val + k.val) % 64]) ∧
    t = { s with
      s := t.s, w := t.w, ks := t.ks, ksv := true, ctrn := s.ctrn + 1, blks := s.blks + 1, pos := t.pos,
      dout := t.dout, err := 0 })

/-- SEND (R165): the session ends, everything else is kept; without a session it succeeds. -/
def Obligations.SendRule : Prop :=
  WordN 0x43 .send ∧ ∀ s : State, exec .send s = .next { s with sess := false, err := 0 }

/-- "XW is exactly four XB of its bytes in order, except that it returns all four bytes in one DOUT and faults as a whole"
(R164): where XW does not fault, the four XB do not, and both end in the same state but for DIN and DOUT. -/
def Obligations.XwIsFourXb : Prop :=
  ∀ s : State, s.sess = true → ¬ (61 ≤ s.pos.val ∧ s.blks = 0x100000000) →
    ∃ k0 k1 k2 k3 t,
      streamBytes [s.din.extractLsb' 0 8, s.din.extractLsb' 8 8, s.din.extractLsb' 16 8, s.din.extractLsb' 24 8] s =
        some ([k0, k1, k2, k3], t) ∧
      ∃ u, exec .xw s = .next u ∧ u = { t with din := s.din, dout := u.dout } ∧
        u.dout.extractLsb' 0 8 = k0 ∧ u.dout.extractLsb' 8 8 = k1 ∧ u.dout.extractLsb' 16 8 = k2 ∧
        u.dout.extractLsb' 24 8 = k3

/-- KW is exactly four KB, and NW four NB, of the bytes of DIN in order (R103, R107). -/
def Obligations.WordLoadsAreFourByteLoads : Prop :=
  ∀ s : State, s.sess = false →
    let bytes : List Word := [s.din &&& 0xFF, (s.din >>> 8) &&& 0xFF, (s.din >>> 16) &&& 0xFF, s.din >>> 24]
    (∃ t, feed .kb bytes s = some t ∧ exec .kw s = .next { t with din := s.din }) ∧
    (∃ t, feed .nb bytes s = some t ∧ exec .nw s = .next { t with din := s.din })

/-! ## Faults -/

/-- Every pair (CMD, DIN) ends in a next state, "a fault never halts or hangs it", and one that ends with a code in ERR has
changed ERR and FAULTED and nothing else (R182). The pair that was issued is off the host's list. -/
def Obligations.FaultChangesOnlyErrAndFaulted : Prop :=
  ∀ (s : State) (cmd din : Word) (rest : List HostInput), ∃ t, step (issuing s cmd din rest) = .next t ∧
    (t.err ≠ 0 → t = { presented s din rest with err := t.err, faulted := true })

/-- A command that ends with `ERR = 0` leaves FAULTED unchanged (R184); RST clears it (R91). -/
def Obligations.SuccessLeavesFaulted : Prop :=
  ∀ (i : Instr) (s t : State), exec i s = .next t → t.err = 0 →
    (i ≠ .rst → t.faulted = s.faulted) ∧ (i = .rst → t.faulted = false)

/-- FAULTED stays 1 through every step but RESET and the RST command, which clear it (R185). -/
def Obligations.FaultedIsSticky : Prop :=
  ∀ (s t : State), step s = .next t → s.faulted = true →
    (t.faulted = false ↔
      (∃ rest, s.inputs = .reset :: rest) ∨ ∃ din rest, s.inputs = .command 0x01000000 din :: rest)

/-- The code that a pair (CMD, DIN) ends with is the first that applies in R183's order: IllegalCommand for a word that is no
command, then the checks of the command, each reporting only the codes of its row (R180, R181). FAULTED records it. -/
def Obligations.ReportedCodeFollowsTheCheckOrder : Prop :=
  ∀ (s : State) (cmd din : Word) (rest : List HostInput), ∃ t, step (issuing s cmd din rest) = .next t ∧
    ((∀ i, decode cmd ≠ .ok i) → t.err = 3 ∧ t.faulted = true) ∧
    ∀ i, decode cmd = .ok i → t.err = reportedCode i (presented s din rest) ∧
      (t.faulted = true ↔ reportedCode i (presented s din rest) ≠ 0 ∨ (s.faulted = true ∧ i ≠ .rst))

/-- In a session every command that is not allowed is Busy, and no command but RST changes the key, the nonce, their lengths
or COUNTER (R28, R181, R217). -/
def Obligations.SessionLocksKeyNonceAndCounter : Prop :=
  ∀ (i : Instr) (s t : State), s.sess = true → exec i s = .next t →
    (allowedInSession i = false → t = faultState s 5) ∧
    (i ≠ .rst → t.key = s.key ∧ t.klen = s.klen ∧ t.nonce = s.nonce ∧ t.nlen = s.nlen ∧ t.counter = s.counter)

/-! ## The whole machine -/

/-- No command halts or hangs the core: every step answers a next state (R182, R224). -/
def Obligations.EveryStepAnswersNext : Prop :=
  ∀ s : State, ∃ t, step s = .next t

/-- A register changes only by the commands of its row of the access matrix (R39). That no command, RST among them, changes
DIN or the host's list is no rule of the spec but the model's own choice (DESIGN CHOICE, log entry 1). -/
def Obligations.RegistersChangeOnlyByTheirCommands : Prop :=
  ∀ (i : Instr) (s t : State), exec i s = .next t →
    (writtenBy .w i = false → t.w = s.w) ∧ (writtenBy .s i = false → t.s = s.s) ∧
    (writtenBy .ks i = false → t.ks = s.ks) ∧ (writtenBy .key i = false → t.key = s.key ∧ t.klen = s.klen) ∧
    (writtenBy .nonce i = false → t.nonce = s.nonce ∧ t.nlen = s.nlen) ∧
    (writtenBy .counter i = false → t.counter = s.counter) ∧ (writtenBy .sess i = false → t.sess = s.sess) ∧
    (writtenBy .ctrnBlks i = false → t.ctrn = s.ctrn ∧ t.blks = s.blks) ∧
    (writtenBy .pos i = false → t.pos = s.pos) ∧ (writtenBy .ksv i = false → t.ksv = s.ksv) ∧
    (writtenBy .dout i = false → t.dout = s.dout) ∧ t.din = s.din ∧ t.inputs = s.inputs

/-- The bits of DIN that a command does not read make no difference (R75, I15). -/
def Obligations.UnreadDinBitsAreIgnored : Prop :=
  ∀ (i : Instr) (s t : State) (d : Word), d &&& dinMask i = s.din &&& dinMask i → exec i s = .next t →
    exec i { s with din := d } = .next { t with din := d }

/-- The invariant holds right after reset. -/
def Obligations.ResetMeetsTheInvariant : Prop := Inv State.reset

/-- Every step keeps the invariant: legal ERR and BLKS, a session's key and nonce, its counter sequence, and S, W and KS
being those of the session's last block (R30, R32, R160, R161, R180, R185, R217). -/
def Obligations.EveryStepKeepsTheInvariant : Prop :=
  ∀ (s t : State), Inv s → step s = .next t → Inv t

/-- Byte t of a session's input is XORed with byte t mod 64 of the block at counter COUNTER + t div 64, modulo 2^32, up to
2^38 bytes (R160, R167). -/
def Obligations.SessionByteUsesItsKeystreamByte : Prop :=
  ∀ s : State, Inv s → s.sess = true → sessionOffset s < 2 ^ 38 →
    ∃ t, exec .xb s = .next t ∧ t.err = 0 ∧ t.sess = true ∧ sessionOffset t = sessionOffset s + 1 ∧
      t.dout = (s.din.extractLsb' 0 8 ^^^
        (keystreamBlock s.key s.nonce (s.counter + BitVec.ofNat 32 (sessionOffset s / 64)))[sessionOffset s % 64]).setWidth 32

/-- The session mechanism is DOC's `apply` (R168): L bytes issued as L XB after SBEGIN give L output bytes, each XORed with
its keystream byte, from ceil(L / 64) blocks, and POS ends where R168 says. The key, the nonce and the counter are those
loaded in the state. -/
def Obligations.SessionIsApply : Prop :=
  ∀ (s : State) (data : List Byte), s.sess = false → s.klen = 32 → s.nlen = 12 → data.length ≤ 2 ^ 38 →
    ∃ b out e, exec .sbegin s = .next b ∧ streamBytes data b = some (out, e) ∧ out.length = data.length ∧
      (∀ n : Nat, out[n]? = data[n]?.map fun p =>
        p ^^^ (keystreamBlock s.key s.nonce (s.counter + BitVec.ofNat 32 (n / 64)))[n % 64]'(Nat.mod_lt n (Nat.succ_pos 63))) ∧
      e.blks.toNat = (data.length + 63) / 64 ∧
      (0 < data.length → e.pos.val + 64 * (e.blks.toNat - 1) = data.length) ∧ (data.length = 0 → e.pos = 64)

/-- Self-inverse (R169): a second session from the same key, nonce and counter turns the output back into the data. -/
def Obligations.ApplyTwiceGivesTheDataBack : Prop :=
  ∀ (s : State) (data : List Byte), s.sess = false → s.klen = 32 → s.nlen = 12 → data.length ≤ 2 ^ 38 →
    ∃ b out e f b' e', exec .sbegin s = .next b ∧ streamBytes data b = some (out, e) ∧ exec .send e = .next f ∧
      exec .sbegin f = .next b' ∧ streamBytes out b' = some (data, e')

/-- LOAD (R86, R214): from any state outside a session its commands leave the key, the nonce and the counter loaded, lengths
32 and 12, and everything else as it was. -/
def Obligations.LoadFillsKeyNonceAndCounter : Prop :=
  ∀ (s : State) (kw : Vector Word 8) (nw : Vector Word 3) (ctr : Word) (rest : List HostInput), s.sess = false →
    ∃ t, Host.Core.run Sys2Proof.core 14 { s with inputs := loadInputs kw nw ctr ++ rest } = .next t ∧
      (∀ (j : Fin 8) (k : Fin 4), t.key[4 * j.val + k.val] = kw[j].extractLsb' (8 * k.val) 8) ∧
      (∀ (j : Fin 3) (k : Fin 4), t.nonce[4 * j.val + k.val] = nw[j].extractLsb' (8 * k.val) 8) ∧
      t = { s with
        key := t.key, klen := 32, nonce := t.nonce, nlen := 12, counter := ctr, err := 0, din := ctr, inputs := rest }
end

