-- ==== Sys2Proof/Laws/Cipher.lean ====
section
/-! SUPPORT. Words and bytes, and what each function of the cipher gives at each index. -/

namespace Sys2Proof.Machine

/-! ## Words and bytes (R11) -/

/-- `rotl` is rotation to the left. -/
theorem rotl_eq_rotateLeft (x : Word) {n : Nat} (h : n < 32) : rotl x n = x.rotateLeft n := by
  simp [rotl, BitVec.rotateLeft_def, Nat.mod_eq_of_lt h]

/-- The bits of LE4, byte by byte. -/
theorem getLsbD_le4 (b0 b1 b2 b3 : Byte) (n : Nat) : (le4 b0 b1 b2 b3).getLsbD n =
    if n < 8 then b0.getLsbD n else if n < 16 then b1.getLsbD (n - 8) else if n < 24 then b2.getLsbD (n - 16)
    else b3.getLsbD (n - 24) := by
  simp only [le4, BitVec.getLsbD_or, BitVec.getLsbD_shiftLeft, BitVec.getLsbD_setWidth]
  rcases Nat.lt_or_ge n 8 with h | h
  · simp [h, show n < 16 by omega, show n < 24 by omega, show n < 32 by omega]
  rcases Nat.lt_or_ge n 16 with h2 | h2
  · simp [BitVec.getLsbD_of_ge b0 n h, h2, show ¬ n < 8 by omega, show n < 24 by omega, show n < 32 by omega, show n - 8 < 32 by omega]
  rcases Nat.lt_or_ge n 24 with h3 | h3
  · simp [BitVec.getLsbD_of_ge b0 n h, BitVec.getLsbD_of_ge b1 (n - 8) (by omega), h3, show ¬ n < 8 by omega, show ¬ n < 16 by omega, show n < 32 by omega, show n - 16 < 32 by omega]
  rcases Nat.lt_or_ge n 32 with h4 | h4
  · simp [BitVec.getLsbD_of_ge b0 n h, BitVec.getLsbD_of_ge b1 (n - 8) (by omega), BitVec.getLsbD_of_ge b2 (n - 16) (by omega), h4, show ¬ n < 8 by omega, show ¬ n < 16 by omega, show ¬ n < 24 by omega, show n - 24 < 32 by omega]
  · simp [BitVec.getLsbD_of_ge b0 n h,  show ¬ n < 8 by omega, show ¬ n < 16 by omega, show ¬ n < 24 by omega, show ¬ n < 32 by omega, BitVec.getLsbD_of_ge b3 (n - 24) (by omega)]

/-- The four bytes of LE4 are its arguments in order. -/
theorem byteOf_le4 (b0 b1 b2 b3 : Byte) :
    byteOf (le4 b0 b1 b2 b3) 0 = b0 ∧ byteOf (le4 b0 b1 b2 b3) 1 = b1 ∧
    byteOf (le4 b0 b1 b2 b3) 2 = b2 ∧ byteOf (le4 b0 b1 b2 b3) 3 = b3 := by
  refine ⟨?_, ?_, ?_, ?_⟩ <;> ext k hk <;>
    simp only [byteOf, BitVec.getElem_extractLsb', getLsbD_le4]
  · simp [hk]
  · simp [hk, show ¬ 8 + k < 8 by omega, show 8 + k < 16 by omega]
  · simp [hk, show ¬ 16 + k < 8 by omega, show ¬ 16 + k < 16 by omega, show 16 + k < 24 by omega]
  · simp [hk, show ¬ 24 + k < 8 by omega, show ¬ 24 + k < 16 by omega, show ¬ 24 + k < 24 by omega]

/-- LE4 of a word's bytes is the word. -/
theorem le4_byteOf (x : Word) : le4 (byteOf x 0) (byteOf x 1) (byteOf x 2) (byteOf x 3) = x := by
  ext k hk
  rw [← BitVec.getLsbD_eq_getElem hk, getLsbD_le4]
  simp only [byteOf, BitVec.getLsbD_extractLsb']
  split
  · simp [*]
  split
  · simp [show k - 8 < 8 by omega, show 8 + (k - 8) = k by omega, hk]
  split
  · simp [show k - 16 < 8 by omega, show 16 + (k - 16) = k by omega, hk]
  · simp [show k - 24 < 8 by omega, show 24 + (k - 24) = k by omega, hk]

/-! ## The rounds (R122) -/

/-- One line of the quarter-round at each index. -/
theorem mixLine_getElem (w : Words) {x y z : Fin 16} (hxz : x ≠ z) (n : Nat) (i : Fin 16) :
    (mixLine w x y z n)[i] = if i = z then rotl (w[z] ^^^ (w[x] + w[y])) n else if i = x then w[x] + w[y] else w[i] := by
  have hv : x.val ≠ z.val := fun h => hxz (Fin.ext h)
  by_cases hz : i = z
  · subst hz
    simp [mixLine, hv]
  · have hz' : z.val ≠ i.val := fun h => hz (Fin.ext h.symm)
    by_cases hx : i = x
    · subst hx
      simp [mixLine, hz, hz']
    · have hx' : x.val ≠ i.val := fun h => hx (Fin.ext h.symm)
      simp [mixLine, hz, hx, hz', hx']

/-- The quarter-round's value at each index: the four lines of R122 on four distinct words, and no other word changed. -/
theorem quarterRound_getElem (w : Words) {a b c d : Fin 16} (hab : a ≠ b) (hac : a ≠ c) (had : a ≠ d) (hbc : b ≠ c)
    (hbd : b ≠ d) (hcd : c ≠ d) (i : Fin 16) :
    (quarterRound w a b c d)[i] =
      let a1 := w[a] + w[b]
      let d1 := rotl (w[d] ^^^ a1) 16
      let c1 := w[c] + d1
      let b1 := rotl (w[b] ^^^ c1) 12
      let a2 := a1 + b1
      let d2 := rotl (d1 ^^^ a2) 8
      let c2 := c1 + d2
      if i = b then rotl (b1 ^^^ c2) 7 else if i = c then c2 else if i = d then d2 else if i = a then a2 else w[i] := by
  simp only [quarterRound, mixLine_getElem _ had, mixLine_getElem _ hbc.symm, hab, hac, had, hbc, hbd, hcd,
    hab.symm, hac.symm, had.symm, hbc.symm, hbd.symm, hcd.symm, if_true, if_false]
  split <;> rename_i h1
  · rfl
  split <;> rename_i h2
  · rfl
  split <;> rename_i h3
  · rfl
  split <;> rename_i h4
  · rfl
  · rfl

/-! ## The feed-forward and the bytes of a block (R128, R50) -/

@[simp] theorem feedForward_getElem (w s : Words) (i : Fin 16) : (feedForward w s)[i] = w[i] + s[i] := by
  simp [feedForward]

/-- Byte `4i + k` of the block is byte k of word i. -/
theorem serialize_getElem (w : Words) (i : Fin 16) (k : Nat) (hk : k < 4) :
    (serialize w)[4 * i.val + k] = byteOf w[i] k := by
  have h1 : (4 * i.val + k) / 4 = i.val := by omega
  have h2 : (4 * i.val + k) % 4 = k := by omega
  simp [serialize, h1, h2]

/-- The words of a block's bytes are the words it was made of. -/
theorem ksWord_serialize (w : Words) (i : Fin 16) : ksWord (serialize w) i = w[i] := by
  have h0 : (serialize w)[4 * i.val] = byteOf w[i] 0 := serialize_getElem w i 0 (by decide)
  rw [ksWord, h0, serialize_getElem w i 1 (by decide), serialize_getElem w i 2 (by decide),
    serialize_getElem w i 3 (by decide), le4_byteOf]

end Sys2Proof.Machine
end

