-- ==== Sys2Proof/Laws/PerInstr.lean ====
section
/-! SUPPORT. Facts about every command as syntax, one lemma per constructor. -/

namespace Sys2Proof.Laws.OpcodeField

/-- The opcode field of a command's word is the command's opcode, whatever its operands (R72, R83). -/
def Statement (i : Instr) : Prop := opcField (encode i) = i.opcode

/-- The opcode field of two words put together is their opcode fields put together. -/
theorem opcField_or (u v : Word) : opcField (u ||| v) = opcField u ||| opcField v := by
  ext k hk
  simp [opcField]

/-- Operand bits that reach no bit above 23 leave the opcode field alone. -/
theorem of_operandBits {i : Instr} (h : opcField (operandBits i) = 0) (h' : opcField (i.opcode.setWidth 32 <<< 24) = i.opcode) :
    Statement i := by
  simp [Statement, encode, opcField_or, h, h']

theorem nop : Statement .nop := of_operandBits (by decide) (by decide)

theorem rst : Statement .rst := of_operandBits (by decide) (by decide)

theorem rdr (idx : Fin 16) : Statement (.rdr idx) := of_operandBits (by revert idx; decide) (by revert idx; decide)

theorem kclr : Statement .kclr := of_operandBits (by decide) (by decide)

theorem kb : Statement .kb := of_operandBits (by decide) (by decide)

theorem kw : Statement .kw := of_operandBits (by decide) (by decide)

theorem nclr : Statement .nclr := of_operandBits (by decide) (by decide)

theorem nb : Statement .nb := of_operandBits (by decide) (by decide)

theorem nw : Statement .nw := of_operandBits (by decide) (by decide)

theorem ctrw : Statement .ctrw := of_operandBits (by decide) (by decide)

theorem init : Statement .init := of_operandBits (by decide) (by decide)

theorem qr (a b c d : Fin 16) : Statement (.qr a b c d) := by
  have hb : ∀ x : Fin 16, opcField (indexWord x <<< 20) = 0 ∧ opcField (indexWord x <<< 16) = 0 ∧
      opcField (indexWord x <<< 12) = 0 ∧ opcField (indexWord x <<< 8) = 0 := by decide
  refine of_operandBits ?_ (show opcField ((0x21 : BitVec 8).setWidth 32 <<< 24) = 0x21 by decide)
  simp [operandBits, opcField_or, (hb a).1, (hb b).2.1, (hb c).2.2.1, (hb d).2.2.2]

theorem colr : Statement .colr := of_operandBits (by decide) (by decide)

theorem diagr : Statement .diagr := of_operandBits (by decide) (by decide)

theorem dblr : Statement .dblr := of_operandBits (by decide) (by decide)

theorem ffwd : Statement .ffwd := of_operandBits (by decide) (by decide)

theorem ww (idx : Fin 16) : Statement (.ww idx) := of_operandBits (by revert idx; decide) (by revert idx; decide)

theorem wr (idx : Fin 16) : Statement (.wr idx) := of_operandBits (by revert idx; decide) (by revert idx; decide)

theorem sr (idx : Fin 16) : Statement (.sr idx) := of_operandBits (by revert idx; decide) (by revert idx; decide)

theorem block : Statement .block := of_operandBits (by decide) (by decide)

theorem ksr (idx : Fin 16) : Statement (.ksr idx) := of_operandBits (by revert idx; decide) (by revert idx; decide)

theorem sbegin : Statement .sbegin := of_operandBits (by decide) (by decide)

theorem xb : Statement .xb := of_operandBits (by decide) (by decide)

theorem xw : Statement .xw := of_operandBits (by decide) (by decide)

theorem send : Statement .send := of_operandBits (by decide) (by decide)

end Sys2Proof.Laws.OpcodeField
end

