-- ==== Sys2Proof/Laws/Decode.lean ====
section
/-! SUPPORT. What decoding does with a word whose opcode is known, and how the fields of put-together words read. -/

namespace Sys2Proof

/-- The row that a word's opcode selects. -/
theorem decode_of_opcode {cmd : Word} {opc : BitVec 8} (h : cmd.extractLsb' 24 8 = opc) : decode cmd = decodeRow opc cmd := by
  rw [decode, opcField, h]

/-- A format N word is its command when its reserved bits are 0, and only then. -/
theorem decodeN_cases (cmd : Word) (i : Instr) :
    (cmd.extractLsb' 0 24 = 0 ∧ decodeN cmd i = .ok i) ∨
    (cmd.extractLsb' 0 24 ≠ 0 ∧ decodeN cmd i = .error .reservedBits) := by
  by_cases h : cmd.extractLsb' 0 24 = 0
  · exact .inl ⟨h, if_pos h⟩
  · exact .inr ⟨h, if_neg h⟩

theorem decodeI_cases (cmd : Word) (f : Fin 16 → Instr) :
    (cmd.extractLsb' 4 20 = 0 ∧ decodeI cmd f = .ok (f (idxField cmd))) ∨
    (cmd.extractLsb' 4 20 ≠ 0 ∧ decodeI cmd f = .error .reservedBits) := by
  by_cases h : cmd.extractLsb' 4 20 = 0
  · exact .inl ⟨h, if_pos h⟩
  · exact .inr ⟨h, if_neg h⟩

theorem decodeQ_cases (cmd : Word) (f : Fin 16 → Fin 16 → Fin 16 → Fin 16 → Instr) :
    (cmd.extractLsb' 0 8 = 0 ∧ decodeQ cmd f = .ok (f (aField cmd) (bField cmd) (cField cmd) (dField cmd))) ∨
    (cmd.extractLsb' 0 8 ≠ 0 ∧ decodeQ cmd f = .error .reservedBits) := by
  by_cases h : cmd.extractLsb' 0 8 = 0
  · exact .inl ⟨h, if_pos h⟩
  · exact .inr ⟨h, if_neg h⟩

theorem decodeRdr_cases (cmd : Word) :
    (cmd.extractLsb' 4 20 = 0 ∧ (idxField cmd).val ≤ 4 ∧ decodeRdr cmd = .ok (.rdr (idxField cmd))) ∨
    (cmd.extractLsb' 4 20 = 0 ∧ 4 < (idxField cmd).val ∧ decodeRdr cmd = .error .reservedIndex) ∨
    (cmd.extractLsb' 4 20 ≠ 0 ∧ decodeRdr cmd = .error .reservedBits) := by
  by_cases h : cmd.extractLsb' 4 20 = 0
  · by_cases g : (idxField cmd).val ≤ 4
    · exact .inl ⟨h, g, (if_pos h).trans (if_pos g)⟩
    · exact .inr (.inl ⟨h, by omega, (if_pos h).trans (if_neg g)⟩)
  · exact .inr (.inr ⟨h, if_neg h⟩)

/-- A field whose value is known as a number is that number. -/
theorem nibble_eq {cmd : Word} {lo : Nat} {x : Fin 16} (h : (cmd.extractLsb' lo 4).toNat = x.val) : nibble cmd lo = x :=
  Fin.ext h

/-- A field of two words put together is their fields put together. -/
theorem extract_or (u v : Word) (lo n : Nat) : (u ||| v).extractLsb' lo n = u.extractLsb' lo n ||| v.extractLsb' lo n := by
  ext k hk
  simp

end Sys2Proof
end

