-- ==== Sys2Proof/Laws/State.lean ====
section
/-! SUPPORT. What each named update of the state does to each field: one lemma per field per update, true by rfl. -/

namespace Sys2Proof.Machine

variable (s : State)

/-! ## Raising a fault (R182) -/

@[simp] theorem State.raise_w (c : ErrorCode) : (s.raise c).w = s.w := rfl
@[simp] theorem State.raise_s (c : ErrorCode) : (s.raise c).s = s.s := rfl
@[simp] theorem State.raise_ks (c : ErrorCode) : (s.raise c).ks = s.ks := rfl
@[simp] theorem State.raise_key (c : ErrorCode) : (s.raise c).key = s.key := rfl
@[simp] theorem State.raise_klen (c : ErrorCode) : (s.raise c).klen = s.klen := rfl
@[simp] theorem State.raise_nonce (c : ErrorCode) : (s.raise c).nonce = s.nonce := rfl
@[simp] theorem State.raise_nlen (c : ErrorCode) : (s.raise c).nlen = s.nlen := rfl
@[simp] theorem State.raise_counter (c : ErrorCode) : (s.raise c).counter = s.counter := rfl
@[simp] theorem State.raise_sess (c : ErrorCode) : (s.raise c).sess = s.sess := rfl
@[simp] theorem State.raise_ctrn (c : ErrorCode) : (s.raise c).ctrn = s.ctrn := rfl
@[simp] theorem State.raise_blks (c : ErrorCode) : (s.raise c).blks = s.blks := rfl
@[simp] theorem State.raise_pos (c : ErrorCode) : (s.raise c).pos = s.pos := rfl
@[simp] theorem State.raise_ksv (c : ErrorCode) : (s.raise c).ksv = s.ksv := rfl
@[simp] theorem State.raise_dout (c : ErrorCode) : (s.raise c).dout = s.dout := rfl
@[simp] theorem State.raise_err (c : ErrorCode) : (s.raise c).err = c.code := rfl
@[simp] theorem State.raise_faulted (c : ErrorCode) : (s.raise c).faulted = true := rfl
@[simp] theorem State.raise_din (c : ErrorCode) : (s.raise c).din = s.din := rfl
@[simp] theorem State.raise_inputs (c : ErrorCode) : (s.raise c).inputs = s.inputs := rfl

/-! ## Succeeding (R184) -/

@[simp] theorem State.succeed_w : (s.succeed).w = s.w := rfl
@[simp] theorem State.succeed_s : (s.succeed).s = s.s := rfl
@[simp] theorem State.succeed_ks : (s.succeed).ks = s.ks := rfl
@[simp] theorem State.succeed_key : (s.succeed).key = s.key := rfl
@[simp] theorem State.succeed_klen : (s.succeed).klen = s.klen := rfl
@[simp] theorem State.succeed_nonce : (s.succeed).nonce = s.nonce := rfl
@[simp] theorem State.succeed_nlen : (s.succeed).nlen = s.nlen := rfl
@[simp] theorem State.succeed_counter : (s.succeed).counter = s.counter := rfl
@[simp] theorem State.succeed_sess : (s.succeed).sess = s.sess := rfl
@[simp] theorem State.succeed_ctrn : (s.succeed).ctrn = s.ctrn := rfl
@[simp] theorem State.succeed_blks : (s.succeed).blks = s.blks := rfl
@[simp] theorem State.succeed_pos : (s.succeed).pos = s.pos := rfl
@[simp] theorem State.succeed_ksv : (s.succeed).ksv = s.ksv := rfl
@[simp] theorem State.succeed_dout : (s.succeed).dout = s.dout := rfl
@[simp] theorem State.succeed_err : (s.succeed).err = 0 := rfl
@[simp] theorem State.succeed_faulted : (s.succeed).faulted = s.faulted := rfl
@[simp] theorem State.succeed_din : (s.succeed).din = s.din := rfl
@[simp] theorem State.succeed_inputs : (s.succeed).inputs = s.inputs := rfl

/-! ## Writing DOUT (R33) -/

@[simp] theorem State.output_w (v : Word) : (s.output v).w = s.w := rfl
@[simp] theorem State.output_s (v : Word) : (s.output v).s = s.s := rfl
@[simp] theorem State.output_ks (v : Word) : (s.output v).ks = s.ks := rfl
@[simp] theorem State.output_key (v : Word) : (s.output v).key = s.key := rfl
@[simp] theorem State.output_klen (v : Word) : (s.output v).klen = s.klen := rfl
@[simp] theorem State.output_nonce (v : Word) : (s.output v).nonce = s.nonce := rfl
@[simp] theorem State.output_nlen (v : Word) : (s.output v).nlen = s.nlen := rfl
@[simp] theorem State.output_counter (v : Word) : (s.output v).counter = s.counter := rfl
@[simp] theorem State.output_sess (v : Word) : (s.output v).sess = s.sess := rfl
@[simp] theorem State.output_ctrn (v : Word) : (s.output v).ctrn = s.ctrn := rfl
@[simp] theorem State.output_blks (v : Word) : (s.output v).blks = s.blks := rfl
@[simp] theorem State.output_pos (v : Word) : (s.output v).pos = s.pos := rfl
@[simp] theorem State.output_ksv (v : Word) : (s.output v).ksv = s.ksv := rfl
@[simp] theorem State.output_dout (v : Word) : (s.output v).dout = v := rfl
@[simp] theorem State.output_err (v : Word) : (s.output v).err = s.err := rfl
@[simp] theorem State.output_faulted (v : Word) : (s.output v).faulted = s.faulted := rfl
@[simp] theorem State.output_din (v : Word) : (s.output v).din = s.din := rfl
@[simp] theorem State.output_inputs (v : Word) : (s.output v).inputs = s.inputs := rfl

/-! ## Taking an event off the host's list -/

@[simp] theorem State.dropInput_w (rest : List HostInput) : (s.dropInput rest).w = s.w := rfl
@[simp] theorem State.dropInput_s (rest : List HostInput) : (s.dropInput rest).s = s.s := rfl
@[simp] theorem State.dropInput_ks (rest : List HostInput) : (s.dropInput rest).ks = s.ks := rfl
@[simp] theorem State.dropInput_key (rest : List HostInput) : (s.dropInput rest).key = s.key := rfl
@[simp] theorem State.dropInput_klen (rest : List HostInput) : (s.dropInput rest).klen = s.klen := rfl
@[simp] theorem State.dropInput_nonce (rest : List HostInput) : (s.dropInput rest).nonce = s.nonce := rfl
@[simp] theorem State.dropInput_nlen (rest : List HostInput) : (s.dropInput rest).nlen = s.nlen := rfl
@[simp] theorem State.dropInput_counter (rest : List HostInput) : (s.dropInput rest).counter = s.counter := rfl
@[simp] theorem State.dropInput_sess (rest : List HostInput) : (s.dropInput rest).sess = s.sess := rfl
@[simp] theorem State.dropInput_ctrn (rest : List HostInput) : (s.dropInput rest).ctrn = s.ctrn := rfl
@[simp] theorem State.dropInput_blks (rest : List HostInput) : (s.dropInput rest).blks = s.blks := rfl
@[simp] theorem State.dropInput_pos (rest : List HostInput) : (s.dropInput rest).pos = s.pos := rfl
@[simp] theorem State.dropInput_ksv (rest : List HostInput) : (s.dropInput rest).ksv = s.ksv := rfl
@[simp] theorem State.dropInput_dout (rest : List HostInput) : (s.dropInput rest).dout = s.dout := rfl
@[simp] theorem State.dropInput_err (rest : List HostInput) : (s.dropInput rest).err = s.err := rfl
@[simp] theorem State.dropInput_faulted (rest : List HostInput) : (s.dropInput rest).faulted = s.faulted := rfl
@[simp] theorem State.dropInput_din (rest : List HostInput) : (s.dropInput rest).din = s.din := rfl
@[simp] theorem State.dropInput_inputs (rest : List HostInput) : (s.dropInput rest).inputs = rest := rfl

/-! ## Presenting a command (R70) -/

@[simp] theorem State.accept_w (d : Word) (rest : List HostInput) : (s.accept d rest).w = s.w := rfl
@[simp] theorem State.accept_s (d : Word) (rest : List HostInput) : (s.accept d rest).s = s.s := rfl
@[simp] theorem State.accept_ks (d : Word) (rest : List HostInput) : (s.accept d rest).ks = s.ks := rfl
@[simp] theorem State.accept_key (d : Word) (rest : List HostInput) : (s.accept d rest).key = s.key := rfl
@[simp] theorem State.accept_klen (d : Word) (rest : List HostInput) : (s.accept d rest).klen = s.klen := rfl
@[simp] theorem State.accept_nonce (d : Word) (rest : List HostInput) : (s.accept d rest).nonce = s.nonce := rfl
@[simp] theorem State.accept_nlen (d : Word) (rest : List HostInput) : (s.accept d rest).nlen = s.nlen := rfl
@[simp] theorem State.accept_counter (d : Word) (rest : List HostInput) : (s.accept d rest).counter = s.counter := rfl
@[simp] theorem State.accept_sess (d : Word) (rest : List HostInput) : (s.accept d rest).sess = s.sess := rfl
@[simp] theorem State.accept_ctrn (d : Word) (rest : List HostInput) : (s.accept d rest).ctrn = s.ctrn := rfl
@[simp] theorem State.accept_blks (d : Word) (rest : List HostInput) : (s.accept d rest).blks = s.blks := rfl
@[simp] theorem State.accept_pos (d : Word) (rest : List HostInput) : (s.accept d rest).pos = s.pos := rfl
@[simp] theorem State.accept_ksv (d : Word) (rest : List HostInput) : (s.accept d rest).ksv = s.ksv := rfl
@[simp] theorem State.accept_dout (d : Word) (rest : List HostInput) : (s.accept d rest).dout = s.dout := rfl
@[simp] theorem State.accept_err (d : Word) (rest : List HostInput) : (s.accept d rest).err = s.err := rfl
@[simp] theorem State.accept_faulted (d : Word) (rest : List HostInput) : (s.accept d rest).faulted = s.faulted := rfl
@[simp] theorem State.accept_din (d : Word) (rest : List HostInput) : (s.accept d rest).din = d := rfl
@[simp] theorem State.accept_inputs (d : Word) (rest : List HostInput) : (s.accept d rest).inputs = rest := rfl

/-! ## Changing W -/

@[simp] theorem State.mapW_w (f : Words → Words) : (s.mapW f).w = f s.w := rfl
@[simp] theorem State.mapW_s (f : Words → Words) : (s.mapW f).s = s.s := rfl
@[simp] theorem State.mapW_ks (f : Words → Words) : (s.mapW f).ks = s.ks := rfl
@[simp] theorem State.mapW_key (f : Words → Words) : (s.mapW f).key = s.key := rfl
@[simp] theorem State.mapW_klen (f : Words → Words) : (s.mapW f).klen = s.klen := rfl
@[simp] theorem State.mapW_nonce (f : Words → Words) : (s.mapW f).nonce = s.nonce := rfl
@[simp] theorem State.mapW_nlen (f : Words → Words) : (s.mapW f).nlen = s.nlen := rfl
@[simp] theorem State.mapW_counter (f : Words → Words) : (s.mapW f).counter = s.counter := rfl
@[simp] theorem State.mapW_sess (f : Words → Words) : (s.mapW f).sess = s.sess := rfl
@[simp] theorem State.mapW_ctrn (f : Words → Words) : (s.mapW f).ctrn = s.ctrn := rfl
@[simp] theorem State.mapW_blks (f : Words → Words) : (s.mapW f).blks = s.blks := rfl
@[simp] theorem State.mapW_pos (f : Words → Words) : (s.mapW f).pos = s.pos := rfl
@[simp] theorem State.mapW_ksv (f : Words → Words) : (s.mapW f).ksv = s.ksv := rfl
@[simp] theorem State.mapW_dout (f : Words → Words) : (s.mapW f).dout = s.dout := rfl
@[simp] theorem State.mapW_err (f : Words → Words) : (s.mapW f).err = s.err := rfl
@[simp] theorem State.mapW_faulted (f : Words → Words) : (s.mapW f).faulted = s.faulted := rfl
@[simp] theorem State.mapW_din (f : Words → Words) : (s.mapW f).din = s.din := rfl
@[simp] theorem State.mapW_inputs (f : Words → Words) : (s.mapW f).inputs = s.inputs := rfl

/-! ## Generating a block (R150) -/

@[simp] theorem State.generate_w (ctr : Word) : (s.generate ctr).w = finalWords (initState s.key s.nonce ctr) := rfl
@[simp] theorem State.generate_s (ctr : Word) : (s.generate ctr).s = initState s.key s.nonce ctr := rfl
@[simp] theorem State.generate_ks (ctr : Word) : (s.generate ctr).ks = keystreamBlock s.key s.nonce ctr := rfl
@[simp] theorem State.generate_key (ctr : Word) : (s.generate ctr).key = s.key := rfl
@[simp] theorem State.generate_klen (ctr : Word) : (s.generate ctr).klen = s.klen := rfl
@[simp] theorem State.generate_nonce (ctr : Word) : (s.generate ctr).nonce = s.nonce := rfl
@[simp] theorem State.generate_nlen (ctr : Word) : (s.generate ctr).nlen = s.nlen := rfl
@[simp] theorem State.generate_counter (ctr : Word) : (s.generate ctr).counter = s.counter := rfl
@[simp] theorem State.generate_sess (ctr : Word) : (s.generate ctr).sess = s.sess := rfl
@[simp] theorem State.generate_ctrn (ctr : Word) : (s.generate ctr).ctrn = s.ctrn := rfl
@[simp] theorem State.generate_blks (ctr : Word) : (s.generate ctr).blks = s.blks := rfl
@[simp] theorem State.generate_pos (ctr : Word) : (s.generate ctr).pos = s.pos := rfl
@[simp] theorem State.generate_ksv (ctr : Word) : (s.generate ctr).ksv = true := rfl
@[simp] theorem State.generate_dout (ctr : Word) : (s.generate ctr).dout = s.dout := rfl
@[simp] theorem State.generate_err (ctr : Word) : (s.generate ctr).err = s.err := rfl
@[simp] theorem State.generate_faulted (ctr : Word) : (s.generate ctr).faulted = s.faulted := rfl
@[simp] theorem State.generate_din (ctr : Word) : (s.generate ctr).din = s.din := rfl
@[simp] theorem State.generate_inputs (ctr : Word) : (s.generate ctr).inputs = s.inputs := rfl

/-! ## Generating a session's next block (R161) -/

@[simp] theorem State.nextBlock_w : (s.nextBlock).w = finalWords (initState s.key s.nonce s.ctrn) := rfl
@[simp] theorem State.nextBlock_s : (s.nextBlock).s = initState s.key s.nonce s.ctrn := rfl
@[simp] theorem State.nextBlock_ks : (s.nextBlock).ks = keystreamBlock s.key s.nonce s.ctrn := rfl
@[simp] theorem State.nextBlock_key : (s.nextBlock).key = s.key := rfl
@[simp] theorem State.nextBlock_klen : (s.nextBlock).klen = s.klen := rfl
@[simp] theorem State.nextBlock_nonce : (s.nextBlock).nonce = s.nonce := rfl
@[simp] theorem State.nextBlock_nlen : (s.nextBlock).nlen = s.nlen := rfl
@[simp] theorem State.nextBlock_counter : (s.nextBlock).counter = s.counter := rfl
@[simp] theorem State.nextBlock_sess : (s.nextBlock).sess = s.sess := rfl
@[simp] theorem State.nextBlock_ctrn : (s.nextBlock).ctrn = s.ctrn + 1 := rfl
@[simp] theorem State.nextBlock_blks : (s.nextBlock).blks = s.blks + 1 := rfl
@[simp] theorem State.nextBlock_pos : (s.nextBlock).pos = 0 := rfl
@[simp] theorem State.nextBlock_ksv : (s.nextBlock).ksv = true := rfl
@[simp] theorem State.nextBlock_dout : (s.nextBlock).dout = s.dout := rfl
@[simp] theorem State.nextBlock_err : (s.nextBlock).err = s.err := rfl
@[simp] theorem State.nextBlock_faulted : (s.nextBlock).faulted = s.faulted := rfl
@[simp] theorem State.nextBlock_din : (s.nextBlock).din = s.din := rfl
@[simp] theorem State.nextBlock_inputs : (s.nextBlock).inputs = s.inputs := rfl

/-! ## Reset (R211) -/

@[simp] theorem State.resetRegisters_w : (s.resetRegisters).w = State.reset.w := rfl
@[simp] theorem State.resetRegisters_s : (s.resetRegisters).s = State.reset.s := rfl
@[simp] theorem State.resetRegisters_ks : (s.resetRegisters).ks = State.reset.ks := rfl
@[simp] theorem State.resetRegisters_key : (s.resetRegisters).key = State.reset.key := rfl
@[simp] theorem State.resetRegisters_klen : (s.resetRegisters).klen = State.reset.klen := rfl
@[simp] theorem State.resetRegisters_nonce : (s.resetRegisters).nonce = State.reset.nonce := rfl
@[simp] theorem State.resetRegisters_nlen : (s.resetRegisters).nlen = State.reset.nlen := rfl
@[simp] theorem State.resetRegisters_counter : (s.resetRegisters).counter = State.reset.counter := rfl
@[simp] theorem State.resetRegisters_sess : (s.resetRegisters).sess = State.reset.sess := rfl
@[simp] theorem State.resetRegisters_ctrn : (s.resetRegisters).ctrn = State.reset.ctrn := rfl
@[simp] theorem State.resetRegisters_blks : (s.resetRegisters).blks = State.reset.blks := rfl
@[simp] theorem State.resetRegisters_pos : (s.resetRegisters).pos = State.reset.pos := rfl
@[simp] theorem State.resetRegisters_ksv : (s.resetRegisters).ksv = State.reset.ksv := rfl
@[simp] theorem State.resetRegisters_dout : (s.resetRegisters).dout = State.reset.dout := rfl
@[simp] theorem State.resetRegisters_err : (s.resetRegisters).err = State.reset.err := rfl
@[simp] theorem State.resetRegisters_faulted : (s.resetRegisters).faulted = State.reset.faulted := rfl
@[simp] theorem State.resetRegisters_din : (s.resetRegisters).din = s.din := rfl
@[simp] theorem State.resetRegisters_inputs : (s.resetRegisters).inputs = s.inputs := rfl

/-! ## Taking a byte in hand (R161) -/

@[simp] theorem State.takeByte_w (h : s.pos.val < 64) : (s.takeByte h).2.w = s.w := rfl
@[simp] theorem State.takeByte_s (h : s.pos.val < 64) : (s.takeByte h).2.s = s.s := rfl
@[simp] theorem State.takeByte_ks (h : s.pos.val < 64) : (s.takeByte h).2.ks = s.ks := rfl
@[simp] theorem State.takeByte_key (h : s.pos.val < 64) : (s.takeByte h).2.key = s.key := rfl
@[simp] theorem State.takeByte_klen (h : s.pos.val < 64) : (s.takeByte h).2.klen = s.klen := rfl
@[simp] theorem State.takeByte_nonce (h : s.pos.val < 64) : (s.takeByte h).2.nonce = s.nonce := rfl
@[simp] theorem State.takeByte_nlen (h : s.pos.val < 64) : (s.takeByte h).2.nlen = s.nlen := rfl
@[simp] theorem State.takeByte_counter (h : s.pos.val < 64) : (s.takeByte h).2.counter = s.counter := rfl
@[simp] theorem State.takeByte_sess (h : s.pos.val < 64) : (s.takeByte h).2.sess = s.sess := rfl
@[simp] theorem State.takeByte_ctrn (h : s.pos.val < 64) : (s.takeByte h).2.ctrn = s.ctrn := rfl
@[simp] theorem State.takeByte_blks (h : s.pos.val < 64) : (s.takeByte h).2.blks = s.blks := rfl
@[simp] theorem State.takeByte_ksv (h : s.pos.val < 64) : (s.takeByte h).2.ksv = s.ksv := rfl
@[simp] theorem State.takeByte_dout (h : s.pos.val < 64) : (s.takeByte h).2.dout = s.dout := rfl
@[simp] theorem State.takeByte_err (h : s.pos.val < 64) : (s.takeByte h).2.err = s.err := rfl
@[simp] theorem State.takeByte_faulted (h : s.pos.val < 64) : (s.takeByte h).2.faulted = s.faulted := rfl
@[simp] theorem State.takeByte_din (h : s.pos.val < 64) : (s.takeByte h).2.din = s.din := rfl
@[simp] theorem State.takeByte_inputs (h : s.pos.val < 64) : (s.takeByte h).2.inputs = s.inputs := rfl
@[simp] theorem State.takeByte_pos (h : s.pos.val < 64) : (s.takeByte h).2.pos.val = s.pos.val + 1 := rfl
@[simp] theorem State.takeByte_byte (h : s.pos.val < 64) : (s.takeByte h).1 = s.ks[s.pos.val] := rfl

/-! ## Placing a command word where the next step takes it -/

@[simp] theorem State.withFetchWord_w (nbits n : Nat) : (s.withFetchWord nbits n).w = s.w := rfl
@[simp] theorem State.withFetchWord_s (nbits n : Nat) : (s.withFetchWord nbits n).s = s.s := rfl
@[simp] theorem State.withFetchWord_ks (nbits n : Nat) : (s.withFetchWord nbits n).ks = s.ks := rfl
@[simp] theorem State.withFetchWord_key (nbits n : Nat) : (s.withFetchWord nbits n).key = s.key := rfl
@[simp] theorem State.withFetchWord_klen (nbits n : Nat) : (s.withFetchWord nbits n).klen = s.klen := rfl
@[simp] theorem State.withFetchWord_nonce (nbits n : Nat) : (s.withFetchWord nbits n).nonce = s.nonce := rfl
@[simp] theorem State.withFetchWord_nlen (nbits n : Nat) : (s.withFetchWord nbits n).nlen = s.nlen := rfl
@[simp] theorem State.withFetchWord_counter (nbits n : Nat) : (s.withFetchWord nbits n).counter = s.counter := rfl
@[simp] theorem State.withFetchWord_sess (nbits n : Nat) : (s.withFetchWord nbits n).sess = s.sess := rfl
@[simp] theorem State.withFetchWord_ctrn (nbits n : Nat) : (s.withFetchWord nbits n).ctrn = s.ctrn := rfl
@[simp] theorem State.withFetchWord_blks (nbits n : Nat) : (s.withFetchWord nbits n).blks = s.blks := rfl
@[simp] theorem State.withFetchWord_pos (nbits n : Nat) : (s.withFetchWord nbits n).pos = s.pos := rfl
@[simp] theorem State.withFetchWord_ksv (nbits n : Nat) : (s.withFetchWord nbits n).ksv = s.ksv := rfl
@[simp] theorem State.withFetchWord_dout (nbits n : Nat) : (s.withFetchWord nbits n).dout = s.dout := rfl
@[simp] theorem State.withFetchWord_err (nbits n : Nat) : (s.withFetchWord nbits n).err = s.err := rfl
@[simp] theorem State.withFetchWord_faulted (nbits n : Nat) : (s.withFetchWord nbits n).faulted = s.faulted := rfl
@[simp] theorem State.withFetchWord_din (nbits n : Nat) : (s.withFetchWord nbits n).din = s.din := rfl
@[simp] theorem State.withFetchWord_inputs (nbits n : Nat) :
    (s.withFetchWord nbits n).inputs = .command (tableCmd nbits n) (tableDin nbits n) :: s.inputs := rfl

end Sys2Proof.Machine
end

