-- ==== Sys2Proof/Laws/Ops.lean ====
section
/-! SUPPORT. One lemma per shared operation that says once everything it can do; later proofs cite these and unfold
nothing. -/

namespace Sys2Proof.Machine

variable {s t : State}

/-! ## Checks and commands -/

@[simp] theorem firstFault_nil : firstFault [] = none := rfl

@[simp] theorem firstFault_cons_true (c : ErrorCode) (l : List (Bool × ErrorCode)) :
    firstFault ((true, c) :: l) = some c := rfl

@[simp] theorem firstFault_cons_false (c : ErrorCode) (l : List (Bool × ErrorCode)) :
    firstFault ((false, c) :: l) = firstFault l := rfl

/-- A fault that is reported is one of the checks, and that check applies. -/
theorem firstFault_mem {l : List (Bool × ErrorCode)} {c : ErrorCode} (h : firstFault l = some c) : (true, c) ∈ l := by
  induction l with
  | nil => simp at h
  | cons p l ih =>
    obtain ⟨b, d⟩ := p
    cases b
    · exact List.mem_cons_of_mem _ (ih (by simpa using h))
    · simp only [firstFault_cons_true, Option.some.injEq] at h
      simp [h]

/-- No fault is reported exactly when no check applies. -/
theorem firstFault_eq_none {l : List (Bool × ErrorCode)} : firstFault l = none ↔ ∀ p ∈ l, p.1 = false := by
  induction l with
  | nil => simp
  | cons p l ih =>
    obtain ⟨b, d⟩ := p
    cases b <;> simp [ih]

theorem command_of_fault {checks : List (Bool × ErrorCode)} {f : State → State} {c : ErrorCode}
    (h : firstFault checks = some c) : command checks f s = .next (s.raise c) := by
  simp [command, h]

theorem command_of_pass {checks : List (Bool × ErrorCode)} {f : State → State} (h : firstFault checks = none) :
    command checks f s = .next (f s).succeed := by
  simp [command, h]

/-- Everything a command can do: raise the first fault that applies, or take its effect and clear ERR. -/
theorem command_next {checks : List (Bool × ErrorCode)} {f : State → State} (h : command checks f s = .next t) :
    (∃ c, firstFault checks = some c ∧ t = s.raise c) ∨ (firstFault checks = none ∧ t = (f s).succeed) := by
  cases hc : firstFault checks with
  | some c =>
    rw [command_of_fault hc] at h
    exact .inl ⟨c, rfl, (Host.Outcome.next.inj h).symm⟩
  | none =>
    rw [command_of_pass hc] at h
    exact .inr ⟨rfl, (Host.Outcome.next.inj h).symm⟩

/-- A command always answers a next state. -/
theorem command_answers (checks : List (Bool × ErrorCode)) (f : State → State) (s : State) :
    ∃ t, command checks f s = .next t := by
  cases hc : firstFault checks with
  | some c => exact ⟨_, command_of_fault hc⟩
  | none => exact ⟨_, command_of_pass hc⟩

/-- No error code is 0, and none is above 7 (R180). -/
theorem ErrorCode.code_ne_zero (c : ErrorCode) : c.code ≠ 0 := by cases c <;> decide

theorem ErrorCode.code_le (c : ErrorCode) : c.code.toNat ≤ 7 := by cases c <;> decide

/-! ## The checks -/

/-- Outside a session Busy does not apply. -/
theorem firstFault_busy (h : s.sess = false) : firstFault [s.busyCheck] = none := by
  simp [State.busyCheck, h]

/-- Outside a session, with a full key and nonce, INIT, BLOCK and SBEGIN raise nothing (R121). -/
theorem firstFault_lengths (h : s.sess = false) (hk : s.klen = 32) (hn : s.nlen = 12) :
    firstFault (s.busyCheck :: s.lengthChecks) = none := by
  simp [State.busyCheck, State.lengthChecks, h, hk, hn]

/-- In a session XB and XW raise nothing while the bytes they need can be had (R163, R164, R167). -/
theorem firstFault_stream {n : Nat} (h : s.sess = true) (hn : ¬ (64 < s.pos.val + n ∧ s.blks = 0x100000000)) :
    firstFault [s.sessionCheck, s.exhaustionCheck n] = none := by
  have he : (s.exhaustionCheck n).1 = false := by
    simp only [State.exhaustionCheck, Config.maxBlocks, Bool.and_eq_false_iff, decide_eq_false_iff_not]
    exact (Classical.not_and_iff_not_or_not.1 hn).imp_right decide_eq_false
  rw [firstFault_eq_none]
  intro p hp
  simp only [List.mem_cons, List.not_mem_nil, or_false] at hp
  rcases hp with rfl | rfl
  · simp [State.sessionCheck, h]
  · exact he

/-! ## Changing W twice -/

/-- Two successful changes of W are one. -/
theorem State.mapW_succeed_mapW (s : State) (f g : Words → Words) :
    ((s.mapW f).succeed.mapW g).succeed = (s.mapW fun w => g (f w)).succeed := rfl

/-- A change of W that succeeds, as a record. -/
theorem State.mapW_succeed (s : State) (f : Words → Words) : (s.mapW f).succeed = { s with w := f s.w, err := 0 } := rfl

/-! ## Loading (R100, R104) -/

/-- Everything `KeyAppend` does: it stores the byte at KLEN and counts, or it leaves an overlong key's length at 33. -/
theorem State.keyAppend_cases (s : State) (b : Byte) :
    (∃ h : s.klen.val < 32, (s.keyAppend b).klen.val = s.klen.val + 1 ∧ (s.keyAppend b).key = s.key.set s.klen.val b ∧
      s.keyAppend b = { s with key := (s.keyAppend b).key, klen := (s.keyAppend b).klen }) ∨
    (32 ≤ s.klen.val ∧ s.keyAppend b = { s with klen := 33 }) := by
  by_cases h : s.klen.val < 32
  · refine .inl ⟨h, ?_⟩
    simp [State.keyAppend, h]
  · refine .inr ⟨by omega, ?_⟩
    simp [State.keyAppend, h]

/-- Everything `NonceAppend` does: it stores the byte at NLEN and counts, or it leaves an overlong nonce's length at 13. -/
theorem State.nonceAppend_cases (s : State) (b : Byte) :
    (∃ h : s.nlen.val < 12, (s.nonceAppend b).nlen.val = s.nlen.val + 1 ∧
      (s.nonceAppend b).nonce = s.nonce.set s.nlen.val b ∧
      s.nonceAppend b = { s with nonce := (s.nonceAppend b).nonce, nlen := (s.nonceAppend b).nlen }) ∨
    (12 ≤ s.nlen.val ∧ s.nonceAppend b = { s with nlen := 13 }) := by
  by_cases h : s.nlen.val < 12
  · refine .inl ⟨h, ?_⟩
    simp [State.nonceAppend, h]
  · refine .inr ⟨by omega, ?_⟩
    simp [State.nonceAppend, h]

/-- `KeyAppend` counts up to 33. -/
theorem State.keyAppend_klen (s : State) (b : Byte) : (s.keyAppend b).klen.val = min (s.klen.val + 1) 33 := by
  obtain ⟨h, hk, -⟩ | ⟨h, hk⟩ := s.keyAppend_cases b
  · omega
  · simp [hk]; omega

/-- `KeyAppend` writes byte KLEN of KEY and no other; an overlong key has no byte KLEN. -/
theorem State.keyAppend_key (s : State) (b : Byte) (j : Fin 32) :
    (s.keyAppend b).key[j] = if j.val = s.klen.val then b else s.key[j] := by
  obtain ⟨h, -, hk, -⟩ | ⟨h, hk⟩ := s.keyAppend_cases b
  · simp [hk, Vector.getElem_set, eq_comm]
  · rw [hk, if_neg (by omega)]

/-- `NonceAppend` counts up to 13. -/
theorem State.nonceAppend_nlen (s : State) (b : Byte) : (s.nonceAppend b).nlen.val = min (s.nlen.val + 1) 13 := by
  obtain ⟨h, hk, -⟩ | ⟨h, hk⟩ := s.nonceAppend_cases b
  · omega
  · simp [hk]; omega

/-- `NonceAppend` writes byte NLEN of NONCE and no other; an overlong nonce has no byte NLEN. -/
theorem State.nonceAppend_nonce (s : State) (b : Byte) (j : Fin 12) :
    (s.nonceAppend b).nonce[j] = if j.val = s.nlen.val then b else s.nonce[j] := by
  obtain ⟨h, -, hk, -⟩ | ⟨h, hk⟩ := s.nonceAppend_cases b
  · simp [hk, Vector.getElem_set, eq_comm]
  · rw [hk, if_neg (by omega)]

/-- On 32 bytes or more `KeyAppend` stores nothing. -/
theorem State.keyAppend_of_ge {s : State} (b : Byte) (h : 32 ≤ s.klen.val) : s.keyAppend b = { s with klen := 33 } :=
  dif_neg (by omega)

/-- On 12 bytes or more `NonceAppend` stores nothing. -/
theorem State.nonceAppend_of_ge {s : State} (b : Byte) (h : 12 ≤ s.nlen.val) : s.nonceAppend b = { s with nlen := 13 } :=
  dif_neg (by omega)

/-- `KeyAppend` touches KEY and KLEN alone. -/
theorem State.keyAppend_frame (s : State) (b : Byte) :
    s.keyAppend b = { s with key := (s.keyAppend b).key, klen := (s.keyAppend b).klen } := by
  obtain ⟨_, _, _, h⟩ | ⟨_, h⟩ := s.keyAppend_cases b
  · exact h
  · rw [h]

/-- `NonceAppend` touches NONCE and NLEN alone. -/
theorem State.nonceAppend_frame (s : State) (b : Byte) :
    s.nonceAppend b = { s with nonce := (s.nonceAppend b).nonce, nlen := (s.nonceAppend b).nlen } := by
  obtain ⟨_, _, _, h⟩ | ⟨_, h⟩ := s.nonceAppend_cases b
  · exact h
  · rw [h]

/-! ### What loading leaves alone -/

@[simp] theorem State.keyAppend_w (s : State) (b : Byte) : (s.keyAppend b).w = s.w := by
  rw [State.keyAppend_frame]
@[simp] theorem State.keyAppend_s (s : State) (b : Byte) : (s.keyAppend b).s = s.s := by
  rw [State.keyAppend_frame]
@[simp] theorem State.keyAppend_ks (s : State) (b : Byte) : (s.keyAppend b).ks = s.ks := by
  rw [State.keyAppend_frame]
@[simp] theorem State.keyAppend_nonce (s : State) (b : Byte) : (s.keyAppend b).nonce = s.nonce := by
  rw [State.keyAppend_frame]
@[simp] theorem State.keyAppend_nlen (s : State) (b : Byte) : (s.keyAppend b).nlen = s.nlen := by
  rw [State.keyAppend_frame]
@[simp] theorem State.keyAppend_counter (s : State) (b : Byte) : (s.keyAppend b).counter = s.counter := by
  rw [State.keyAppend_frame]
@[simp] theorem State.keyAppend_sess (s : State) (b : Byte) : (s.keyAppend b).sess = s.sess := by
  rw [State.keyAppend_frame]
@[simp] theorem State.keyAppend_ctrn (s : State) (b : Byte) : (s.keyAppend b).ctrn = s.ctrn := by
  rw [State.keyAppend_frame]
@[simp] theorem State.keyAppend_blks (s : State) (b : Byte) : (s.keyAppend b).blks = s.blks := by
  rw [State.keyAppend_frame]
@[simp] theorem State.keyAppend_pos (s : State) (b : Byte) : (s.keyAppend b).pos = s.pos := by
  rw [State.keyAppend_frame]
@[simp] theorem State.keyAppend_ksv (s : State) (b : Byte) : (s.keyAppend b).ksv = s.ksv := by
  rw [State.keyAppend_frame]
@[simp] theorem State.keyAppend_dout (s : State) (b : Byte) : (s.keyAppend b).dout = s.dout := by
  rw [State.keyAppend_frame]
@[simp] theorem State.keyAppend_err (s : State) (b : Byte) : (s.keyAppend b).err = s.err := by
  rw [State.keyAppend_frame]
@[simp] theorem State.keyAppend_faulted (s : State) (b : Byte) : (s.keyAppend b).faulted = s.faulted := by
  rw [State.keyAppend_frame]
@[simp] theorem State.keyAppend_din (s : State) (b : Byte) : (s.keyAppend b).din = s.din := by
  rw [State.keyAppend_frame]
@[simp] theorem State.keyAppend_inputs (s : State) (b : Byte) : (s.keyAppend b).inputs = s.inputs := by
  rw [State.keyAppend_frame]

@[simp] theorem State.nonceAppend_w (s : State) (b : Byte) : (s.nonceAppend b).w = s.w := by
  rw [State.nonceAppend_frame]
@[simp] theorem State.nonceAppend_s (s : State) (b : Byte) : (s.nonceAppend b).s = s.s := by
  rw [State.nonceAppend_frame]
@[simp] theorem State.nonceAppend_ks (s : State) (b : Byte) : (s.nonceAppend b).ks = s.ks := by
  rw [State.nonceAppend_frame]
@[simp] theorem State.nonceAppend_key (s : State) (b : Byte) : (s.nonceAppend b).key = s.key := by
  rw [State.nonceAppend_frame]
@[simp] theorem State.nonceAppend_klen (s : State) (b : Byte) : (s.nonceAppend b).klen = s.klen := by
  rw [State.nonceAppend_frame]
@[simp] theorem State.nonceAppend_counter (s : State) (b : Byte) : (s.nonceAppend b).counter = s.counter := by
  rw [State.nonceAppend_frame]
@[simp] theorem State.nonceAppend_sess (s : State) (b : Byte) : (s.nonceAppend b).sess = s.sess := by
  rw [State.nonceAppend_frame]
@[simp] theorem State.nonceAppend_ctrn (s : State) (b : Byte) : (s.nonceAppend b).ctrn = s.ctrn := by
  rw [State.nonceAppend_frame]
@[simp] theorem State.nonceAppend_blks (s : State) (b : Byte) : (s.nonceAppend b).blks = s.blks := by
  rw [State.nonceAppend_frame]
@[simp] theorem State.nonceAppend_pos (s : State) (b : Byte) : (s.nonceAppend b).pos = s.pos := by
  rw [State.nonceAppend_frame]
@[simp] theorem State.nonceAppend_ksv (s : State) (b : Byte) : (s.nonceAppend b).ksv = s.ksv := by
  rw [State.nonceAppend_frame]
@[simp] theorem State.nonceAppend_dout (s : State) (b : Byte) : (s.nonceAppend b).dout = s.dout := by
  rw [State.nonceAppend_frame]
@[simp] theorem State.nonceAppend_err (s : State) (b : Byte) : (s.nonceAppend b).err = s.err := by
  rw [State.nonceAppend_frame]
@[simp] theorem State.nonceAppend_faulted (s : State) (b : Byte) : (s.nonceAppend b).faulted = s.faulted := by
  rw [State.nonceAppend_frame]
@[simp] theorem State.nonceAppend_din (s : State) (b : Byte) : (s.nonceAppend b).din = s.din := by
  rw [State.nonceAppend_frame]
@[simp] theorem State.nonceAppend_inputs (s : State) (b : Byte) : (s.nonceAppend b).inputs = s.inputs := by
  rw [State.nonceAppend_frame]

/-! ## Keystream bytes (R161) -/

/-- With a byte in hand `NextKeyByte` takes it, and POS counts. -/
theorem State.nextKeyByte_of_lt {s : State} (h : s.pos.val < 64) :
    s.nextKeyByte = (s.ks[s.pos.val], { s with pos := ⟨s.pos.val + 1, by omega⟩ }) :=
  dif_pos h

/-- At `POS = 64` it generates the next block and takes its byte 0. -/
theorem State.nextKeyByte_of_eq {s : State} (h : s.pos = 64) :
    s.nextKeyByte = ((keystreamBlock s.key s.nonce s.ctrn)[0], { s.nextBlock with pos := 1 }) :=
  (dif_neg (by rw [h]; decide)).trans rfl

/-- POS is below 64 or is 64. -/
theorem State.pos_cases (s : State) : s.pos.val < 64 ∨ s.pos = 64 := by
  have := s.pos.isLt
  by_cases h : s.pos.val < 64
  · exact .inl h
  · exact .inr (Fin.ext (by simp; omega))

/-- XB with a byte in hand (R163). -/
theorem State.xorByte_of_lt {s : State} (p : Byte) (h : s.pos.val < 64) :
    s.xorByte p =
      { s with dout := (p ^^^ s.ks[s.pos.val]).setWidth 32, pos := ⟨s.pos.val + 1, by omega⟩ } := by
  rw [State.xorByte, State.nextKeyByte_of_lt h]; rfl

/-- XB at `POS = 64` (R163). -/
theorem State.xorByte_of_eq {s : State} (p : Byte) (h : s.pos = 64) :
    s.xorByte p =
      { s.nextBlock with dout := (p ^^^ (keystreamBlock s.key s.nonce s.ctrn)[0]).setWidth 32, pos := 1 } := by
  rw [State.xorByte, State.nextKeyByte_of_eq h]; rfl

/-- XB touches only W, S, KS, KSV, the session's counters and DOUT. -/
theorem State.xorByte_frame (s : State) (p : Byte) :
    s.xorByte p = { s with
      w := (s.xorByte p).w, s := (s.xorByte p).s, ks := (s.xorByte p).ks, ksv := (s.xorByte p).ksv,
      ctrn := (s.xorByte p).ctrn, blks := (s.xorByte p).blks, pos := (s.xorByte p).pos, dout := (s.xorByte p).dout } := by
  obtain h | h := s.pos_cases
  · rw [State.xorByte_of_lt p h]
  · rw [State.xorByte_of_eq p h]; rfl

/-- XW as its four bytes, taken in order (R164). -/
theorem State.xorWord_of_bytes {s s1 s2 s3 s4 : State} {k0 k1 k2 k3 : Byte} (e0 : s.nextKeyByte = (k0, s1))
    (e1 : s1.nextKeyByte = (k1, s2)) (e2 : s2.nextKeyByte = (k2, s3)) (e3 : s3.nextKeyByte = (k3, s4)) :
    s.xorWord = { s4 with
      dout := le4 (s.dinByte 0 ^^^ k0) (s.dinByte 1 ^^^ k1) (s.dinByte 2 ^^^ k2) (s.dinByte 3 ^^^ k3) } := by
  rw [State.xorWord]
  simp only [e0, e1, e2, e3]
  rfl

/-- Two stretches that touch only W, S, KS, KSV, the session's counters and DOUT are one such stretch. -/
theorem State.stream_frame_trans {s t u : State}
    (h : t = { s with
      w := t.w, s := t.s, ks := t.ks, ksv := t.ksv, ctrn := t.ctrn, blks := t.blks, pos := t.pos, dout := t.dout })
    (h' : u = { t with
      w := u.w, s := u.s, ks := u.ks, ksv := u.ksv, ctrn := u.ctrn, blks := u.blks, pos := u.pos, dout := u.dout }) :
    u = { s with
      w := u.w, s := u.s, ks := u.ks, ksv := u.ksv, ctrn := u.ctrn, blks := u.blks, pos := u.pos, dout := u.dout } :=
  h'.trans (by rw [h])

/-- `NextKeyByte` as such a stretch. -/
theorem State.nextKeyByte_stream_frame {s t : State} {k : Byte} (h : s.nextKeyByte = (k, t)) :
    t = { s with
      w := t.w, s := t.s, ks := t.ks, ksv := t.ksv, ctrn := t.ctrn, blks := t.blks, pos := t.pos, dout := t.dout } := by
  obtain hp | hp := s.pos_cases
  · rw [State.nextKeyByte_of_lt hp] at h
    cases h; rfl
  · rw [State.nextKeyByte_of_eq hp] at h
    cases h; rfl

/-- XW touches only W, S, KS, KSV, the session's counters and DOUT. -/
theorem State.xorWord_frame (s : State) :
    s.xorWord = { s with
      w := s.xorWord.w, s := s.xorWord.s, ks := s.xorWord.ks, ksv := s.xorWord.ksv, ctrn := s.xorWord.ctrn,
      blks := s.xorWord.blks, pos := s.xorWord.pos, dout := s.xorWord.dout } := by
  obtain ⟨⟨k0, s1⟩, e1⟩ : ∃ r, s.nextKeyByte = r := ⟨_, rfl⟩
  obtain ⟨⟨k1, s2⟩, e2⟩ : ∃ r, s1.nextKeyByte = r := ⟨_, rfl⟩
  obtain ⟨⟨k2, s3⟩, e3⟩ : ∃ r, s2.nextKeyByte = r := ⟨_, rfl⟩
  obtain ⟨⟨k3, s4⟩, e4⟩ : ∃ r, s3.nextKeyByte = r := ⟨_, rfl⟩
  have e := State.xorWord_of_bytes e1 e2 e3 e4
  have f := State.stream_frame_trans (State.nextKeyByte_stream_frame e1) (State.stream_frame_trans
    (State.nextKeyByte_stream_frame e2) (State.stream_frame_trans (State.nextKeyByte_stream_frame e3)
      (State.nextKeyByte_stream_frame e4)))
  rw [e]
  exact State.stream_frame_trans f rfl

/-! ### What the stream commands leave alone -/

@[simp] theorem State.xorByte_key (s : State) (p : Byte) : (s.xorByte p).key = s.key := by
  rw [State.xorByte_frame]
@[simp] theorem State.xorByte_klen (s : State) (p : Byte) : (s.xorByte p).klen = s.klen := by
  rw [State.xorByte_frame]
@[simp] theorem State.xorByte_nonce (s : State) (p : Byte) : (s.xorByte p).nonce = s.nonce := by
  rw [State.xorByte_frame]
@[simp] theorem State.xorByte_nlen (s : State) (p : Byte) : (s.xorByte p).nlen = s.nlen := by
  rw [State.xorByte_frame]
@[simp] theorem State.xorByte_counter (s : State) (p : Byte) : (s.xorByte p).counter = s.counter := by
  rw [State.xorByte_frame]
@[simp] theorem State.xorByte_sess (s : State) (p : Byte) : (s.xorByte p).sess = s.sess := by
  rw [State.xorByte_frame]
@[simp] theorem State.xorByte_err (s : State) (p : Byte) : (s.xorByte p).err = s.err := by
  rw [State.xorByte_frame]
@[simp] theorem State.xorByte_faulted (s : State) (p : Byte) : (s.xorByte p).faulted = s.faulted := by
  rw [State.xorByte_frame]
@[simp] theorem State.xorByte_din (s : State) (p : Byte) : (s.xorByte p).din = s.din := by
  rw [State.xorByte_frame]
@[simp] theorem State.xorByte_inputs (s : State) (p : Byte) : (s.xorByte p).inputs = s.inputs := by
  rw [State.xorByte_frame]

@[simp] theorem State.xorWord_key (s : State) : (s.xorWord).key = s.key := by
  rw [State.xorWord_frame]
@[simp] theorem State.xorWord_klen (s : State) : (s.xorWord).klen = s.klen := by
  rw [State.xorWord_frame]
@[simp] theorem State.xorWord_nonce (s : State) : (s.xorWord).nonce = s.nonce := by
  rw [State.xorWord_frame]
@[simp] theorem State.xorWord_nlen (s : State) : (s.xorWord).nlen = s.nlen := by
  rw [State.xorWord_frame]
@[simp] theorem State.xorWord_counter (s : State) : (s.xorWord).counter = s.counter := by
  rw [State.xorWord_frame]
@[simp] theorem State.xorWord_sess (s : State) : (s.xorWord).sess = s.sess := by
  rw [State.xorWord_frame]
@[simp] theorem State.xorWord_err (s : State) : (s.xorWord).err = s.err := by
  rw [State.xorWord_frame]
@[simp] theorem State.xorWord_faulted (s : State) : (s.xorWord).faulted = s.faulted := by
  rw [State.xorWord_frame]
@[simp] theorem State.xorWord_din (s : State) : (s.xorWord).din = s.din := by
  rw [State.xorWord_frame]
@[simp] theorem State.xorWord_inputs (s : State) : (s.xorWord).inputs = s.inputs := by
  rw [State.xorWord_frame]

/-- XW with its four bytes in hand (R164). -/
theorem State.xorWord_of_le {s : State} (h : s.pos.val ≤ 60) :
    s.xorWord = { s with
      pos := ⟨s.pos.val + 4, by omega⟩
      dout := le4 (s.dinByte 0 ^^^ s.ks[s.pos.val]) (s.dinByte 1 ^^^ s.ks[s.pos.val + 1])
        (s.dinByte 2 ^^^ s.ks[s.pos.val + 2]) (s.dinByte 3 ^^^ s.ks[s.pos.val + 3]) } := by
  have e0 := State.nextKeyByte_of_lt (s := s) (by omega)
  have e1 := State.nextKeyByte_of_lt (s := { s with pos := ⟨s.pos.val + 1, by omega⟩ }) (by show s.pos.val + 1 < 64; omega)
  have e2 := State.nextKeyByte_of_lt (s := { s with pos := ⟨s.pos.val + 2, by omega⟩ }) (by show s.pos.val + 2 < 64; omega)
  have e3 := State.nextKeyByte_of_lt (s := { s with pos := ⟨s.pos.val + 3, by omega⟩ }) (by show s.pos.val + 3 < 64; omega)
  exact State.xorWord_of_bytes e0 e1 e2 e3

/-! ## The initial state (R120) -/

/-- The bytes of a key word. -/
theorem byteOf_keyWord (key : Vector Byte 32) (j : Fin 8) (k : Fin 4) : byteOf (keyWord key j) k = key[4 * j.val + k.val] := by
  obtain ⟨h0, h1, h2, h3⟩ := byteOf_le4 key[4 * j.val] key[4 * j.val + 1] key[4 * j.val + 2] key[4 * j.val + 3]
  fin_cases k
  · exact h0
  · exact h1
  · exact h2
  · exact h3

/-- The bytes of a nonce word. -/
theorem byteOf_nonceWord (nonce : Vector Byte 12) (j : Fin 3) (k : Fin 4) :
    byteOf (nonceWord nonce j) k = nonce[4 * j.val + k.val] := by
  obtain ⟨h0, h1, h2, h3⟩ := byteOf_le4 nonce[4 * j.val] nonce[4 * j.val + 1] nonce[4 * j.val + 2] nonce[4 * j.val + 3]
  fin_cases k
  · exact h0
  · exact h1
  · exact h2
  · exact h3

/-- `InitState` has the layout of R22. -/
theorem initState_layout (key : Vector Byte 32) (nonce : Vector Byte 12) (ctr : Word) :
    Safety.InitLayout key nonce ctr (initState key nonce ctr) := by
  have hk : ∀ j : Fin 8, (initState key nonce ctr)[4 + j.val] = keyWord key j := by
    intro j; fin_cases j <;> rfl
  have hn : ∀ j : Fin 3, (initState key nonce ctr)[13 + j.val] = nonceWord nonce j := by
    intro j; fin_cases j <;> rfl
  refine ⟨rfl, rfl, rfl, rfl, fun j k => ?_, rfl, fun j k => ?_⟩
  · rw [hk]; exact byteOf_keyWord key j k
  · rw [hn]; exact byteOf_nonceWord nonce j k

/-! ## One step -/

/-- Everything a step can do: nothing, a reset, IllegalCommand, or the command that was decoded. -/
theorem step_cases (s : State) :
    (s.inputs = [] ∧ step s = .next s) ∨
    (∃ rest, s.inputs = .reset :: rest ∧ step s = .next (s.dropInput rest).resetRegisters) ∨
    (∃ cmd din rest e, s.inputs = .command cmd din :: rest ∧ decode cmd = .error e ∧
      step s = .next ((s.accept din rest).raise .illegalCommand)) ∨
    (∃ cmd din rest i, s.inputs = .command cmd din :: rest ∧ decode cmd = .ok i ∧
      step s = exec i (s.accept din rest)) := by
  cases hs : s.inputs with
  | nil => exact .inl ⟨rfl, by simp [step, hs]⟩
  | cons e rest =>
    cases e with
    | reset => exact .inr (.inl ⟨rest, rfl, by simp [step, hs, runInput]⟩)
    | command cmd din =>
      cases hd : decode cmd with
      | error e => exact .inr (.inr (.inl ⟨cmd, din, rest, e, rfl, hd, by simp [step, hs, runInput, runCommand, hd]⟩))
      | ok i => exact .inr (.inr (.inr ⟨cmd, din, rest, i, rfl, hd, by simp [step, hs, runInput, runCommand, hd]⟩))

end Sys2Proof.Machine
end

