-- ==== Sys2Proof/Laws/Exec.lean ====
section
/-! SUPPORT. What exec does with each command: its checks and its effect, one lemma per constructor, for later proofs to
rewrite with; and what holds of every command. -/

namespace Sys2Proof.Machine

variable (s : State)

theorem exec_nop : exec .nop s =
    command [] id s := rfl

theorem exec_rst : exec .rst s =
    command [] State.resetRegisters s := rfl

theorem exec_rdr (idx : Fin 16) : exec (.rdr idx) s =
    command [(decide (4 < idx.val), .illegalCommand)] (fun s => s.output (s.controlRegister idx)) s := rfl

theorem exec_kclr : exec .kclr s =
    command [s.busyCheck] (fun s => { s with key := Vector.replicate 32 0, klen := 0 }) s := rfl

theorem exec_kb : exec .kb s =
    command [s.busyCheck] (fun s => s.keyAppend (s.dinByte 0)) s := rfl

theorem exec_kw : exec .kw s =
    command [s.busyCheck]
      (fun s => (((s.keyAppend (s.dinByte 0)).keyAppend (s.dinByte 1)).keyAppend (s.dinByte 2)).keyAppend (s.dinByte 3)) s := rfl

theorem exec_nclr : exec .nclr s =
    command [s.busyCheck] (fun s => { s with nonce := Vector.replicate 12 0, nlen := 0 }) s := rfl

theorem exec_nb : exec .nb s =
    command [s.busyCheck] (fun s => s.nonceAppend (s.dinByte 0)) s := rfl

theorem exec_nw : exec .nw s =
    command [s.busyCheck]
      (fun s =>
      (((s.nonceAppend (s.dinByte 0)).nonceAppend (s.dinByte 1)).nonceAppend (s.dinByte 2)).nonceAppend (s.dinByte 3)) s := rfl

theorem exec_ctrw : exec .ctrw s =
    command [s.busyCheck] (fun s => { s with counter := s.din }) s := rfl

theorem exec_init : exec .init s =
    command (s.busyCheck :: s.lengthChecks)
      (fun s => { s with s := initState s.key s.nonce s.counter, w := initState s.key s.nonce s.counter }) s := rfl

theorem exec_qr (a b c d : Fin 16) : exec (.qr a b c d) s =
    command [s.busyCheck, (!pairwiseDistinct a b c d, .indexAlias)] (fun s => s.mapW (quarterRound · a b c d)) s := rfl

theorem exec_colr : exec .colr s =
    command [s.busyCheck] (fun s => s.mapW columnRound) s := rfl

theorem exec_diagr : exec .diagr s =
    command [s.busyCheck] (fun s => s.mapW diagonalRound) s := rfl

theorem exec_dblr : exec .dblr s =
    command [s.busyCheck] (fun s => s.mapW doubleRound) s := rfl

theorem exec_ffwd : exec .ffwd s =
    command [s.busyCheck] (fun s => s.mapW (feedForward · s.s)) s := rfl

theorem exec_ww (idx : Fin 16) : exec (.ww idx) s =
    command [s.busyCheck] (fun s => s.mapW (·.set idx s.din)) s := rfl

theorem exec_wr (idx : Fin 16) : exec (.wr idx) s =
    command [] (fun s => s.output s.w[idx]) s := rfl

theorem exec_sr (idx : Fin 16) : exec (.sr idx) s =
    command [] (fun s => s.output s.s[idx]) s := rfl

theorem exec_block : exec .block s =
    command (s.busyCheck :: s.lengthChecks) (fun s => s.generate s.counter) s := rfl

theorem exec_ksr (idx : Fin 16) : exec (.ksr idx) s =
    command [] (fun s => s.output (ksWord s.ks idx)) s := rfl

theorem exec_sbegin : exec .sbegin s =
    command (s.busyCheck :: s.lengthChecks) (fun s => { s with sess := true, ctrn := s.counter, blks := 0, pos := 64 }) s := rfl

theorem exec_xb : exec .xb s =
    command [s.sessionCheck, s.exhaustionCheck 1] (fun s => s.xorByte (s.dinByte 0)) s := rfl

theorem exec_xw : exec .xw s =
    command [s.sessionCheck, s.exhaustionCheck 4] State.xorWord s := rfl

theorem exec_send : exec .send s =
    command [] (fun s => { s with sess := false }) s := rfl

/-! ## All commands at once -/

/-- Each command's checks, in the order it makes them. -/
def checksOf (i : Instr) (s : State) : List (Bool × ErrorCode) :=
  match i with
  | .nop => []
  | .rst => []
  | .rdr idx => [(decide (4 < idx.val), .illegalCommand)]
  | .kclr => [s.busyCheck]
  | .kb => [s.busyCheck]
  | .kw => [s.busyCheck]
  | .nclr => [s.busyCheck]
  | .nb => [s.busyCheck]
  | .nw => [s.busyCheck]
  | .ctrw => [s.busyCheck]
  | .init => s.busyCheck :: s.lengthChecks
  | .qr a b c d => [s.busyCheck, (!pairwiseDistinct a b c d, .indexAlias)]
  | .colr => [s.busyCheck]
  | .diagr => [s.busyCheck]
  | .dblr => [s.busyCheck]
  | .ffwd => [s.busyCheck]
  | .ww _ => [s.busyCheck]
  | .wr _ => []
  | .sr _ => []
  | .block => s.busyCheck :: s.lengthChecks
  | .ksr _ => []
  | .sbegin => s.busyCheck :: s.lengthChecks
  | .xb => [s.sessionCheck, s.exhaustionCheck 1]
  | .xw => [s.sessionCheck, s.exhaustionCheck 4]
  | .send => []

/-- Each command's effect when no check applies. -/
def effectOf : Instr → State → State
  | .nop => id
  | .rst => State.resetRegisters
  | .rdr idx => fun s => s.output (s.controlRegister idx)
  | .kclr => fun s => { s with key := Vector.replicate 32 0, klen := 0 }
  | .kb => fun s => s.keyAppend (s.dinByte 0)
  | .kw => fun s =>
    (((s.keyAppend (s.dinByte 0)).keyAppend (s.dinByte 1)).keyAppend (s.dinByte 2)).keyAppend (s.dinByte 3)
  | .nclr => fun s => { s with nonce := Vector.replicate 12 0, nlen := 0 }
  | .nb => fun s => s.nonceAppend (s.dinByte 0)
  | .nw => fun s =>
    (((s.nonceAppend (s.dinByte 0)).nonceAppend (s.dinByte 1)).nonceAppend (s.dinByte 2)).nonceAppend (s.dinByte 3)
  | .ctrw => fun s => { s with counter := s.din }
  | .init => fun s => { s with s := initState s.key s.nonce s.counter, w := initState s.key s.nonce s.counter }
  | .qr a b c d => fun s => s.mapW (quarterRound · a b c d)
  | .colr => fun s => s.mapW columnRound
  | .diagr => fun s => s.mapW diagonalRound
  | .dblr => fun s => s.mapW doubleRound
  | .ffwd => fun s => s.mapW (feedForward · s.s)
  | .ww idx => fun s => s.mapW (·.set idx s.din)
  | .wr idx => fun s => s.output s.w[idx]
  | .sr idx => fun s => s.output s.s[idx]
  | .block => fun s => s.generate s.counter
  | .ksr idx => fun s => s.output (ksWord s.ks idx)
  | .sbegin => fun s => { s with sess := true, ctrn := s.counter, blks := 0, pos := 64 }
  | .xb => fun s => s.xorByte (s.dinByte 0)
  | .xw => State.xorWord
  | .send => fun s => { s with sess := false }

/-- Every meaning is its checks, then its effect (R70, R182, R184). -/
theorem exec_eq_command (i : Instr) (s : State) : exec i s = command (checksOf i s) (effectOf i) s := by
  cases i <;> rfl

/-- Everything a command can do: raise the first of its faults that applies, or take its effect and clear ERR. -/
theorem exec_cases {i : Instr} {s t : State} (h : exec i s = .next t) :
    (∃ c, firstFault (checksOf i s) = some c ∧ t = s.raise c) ∨
    (firstFault (checksOf i s) = none ∧ t = (effectOf i s).succeed) :=
  command_next ((exec_eq_command i s).symm.trans h)

/-- No effect touches the host's side, and none but RST's touches FAULTED. -/
theorem effectOf_frame (i : Instr) (s : State) :
    (effectOf i s).din = s.din ∧ (effectOf i s).inputs = s.inputs ∧ (i ≠ .rst → (effectOf i s).faulted = s.faulted) := by
  cases i <;> simp [effectOf]

/-- Every command answers a next state. -/
theorem exec_answers (i : Instr) (s : State) : ∃ t, exec i s = .next t := by
  obtain ⟨t, ht⟩ := command_answers (checksOf i s) (effectOf i) s
  exact ⟨t, (exec_eq_command i s).trans ht⟩

/-- A command that ends with a code in ERR has changed ERR and FAULTED and nothing else (R182). -/
theorem exec_of_err_ne {i : Instr} {s t : State} (h : exec i s = .next t) (he : t.err ≠ 0) : ∃ c, t = s.raise c := by
  obtain ⟨c, -, ht⟩ | ⟨-, ht⟩ := exec_cases h
  · exact ⟨c, ht⟩
  · exact absurd (by rw [ht]; rfl) he

/-! ## Sequences -/

/-- A sequence put together runs its first part, then its second. -/
theorem execAll_append (is js : List Instr) (s : State) :
    Safety.execAll (is ++ js) s = (Safety.execAll is s).bind (Safety.execAll js) := by
  induction is generalizing s with
  | nil => rfl
  | cons i is ih =>
    obtain ⟨t, ht⟩ := exec_answers i s
    simp [Safety.execAll, ht, ih]

/-- The first command of a sequence. -/
theorem execAll_cons {i : Instr} {s t : State} (h : exec i s = .next t) (is : List Instr) :
    Safety.execAll (i :: is) s = Safety.execAll is t := by
  simp [Safety.execAll, h]

end Sys2Proof.Machine
end

