-- ==== Sys2Proof/Laws/Words.lean ====
section
/-! SUPPORT. What a step does with an issued word, format by format, and the two shared checks seen from a command. -/

namespace Sys2Proof.Machine

open Sys2Proof.Safety

variable {s : State} {cmd din : Word} {rest : List HostInput}

/-- A word that decodes runs its command. -/
theorem step_issuing_ok {i : Instr} (h : decode cmd = .ok i) :
    step (issuing s cmd din rest) = exec i (presented s din rest) := by
  simp [step, issuing, runInput, runCommand, h, State.accept, presented]

/-- A word that does not decode is IllegalCommand (R77 to R79). -/
theorem step_issuing_error {e : DecodeError} (h : decode cmd = .error e) :
    step (issuing s cmd din rest) = .next (faultState (presented s din rest) 3) := by
  simp [step, issuing, runInput, runCommand, h, State.accept, presented, State.raise, faultState, ErrorCode.code]

/-- An opcode whose row is format N. -/
theorem wordN_of_row {opc : BitVec 8} {i : Instr} (h : ∀ cmd : Word, decodeRow opc cmd = decodeN cmd i) : WordN opc i := by
  intro s cmd din rest ho
  obtain ⟨hz, hd⟩ | ⟨hz, hd⟩ := decodeN_cases cmd i <;> rw [← h, ← decode_of_opcode ho] at hd
  · rw [if_pos hz]
    exact step_issuing_ok hd
  · rw [if_neg hz]
    exact step_issuing_error hd

/-- An opcode whose row is format I. -/
theorem wordI_of_row {opc : BitVec 8} {f : Fin 16 → Instr} (h : ∀ cmd : Word, decodeRow opc cmd = decodeI cmd f) :
    WordI opc f := by
  intro s cmd din rest idx ho hx
  obtain ⟨hz, hd⟩ | ⟨hz, hd⟩ := decodeI_cases cmd f <;> rw [← h, ← decode_of_opcode ho] at hd
  · rw [idxField, nibble_eq hx] at hd
    rw [if_pos hz]
    exact step_issuing_ok hd
  · rw [if_neg hz]
    exact step_issuing_error hd

/-- An opcode whose row is format Q. -/
theorem wordQ_of_row {opc : BitVec 8} {f : Fin 16 → Fin 16 → Fin 16 → Fin 16 → Instr}
    (h : ∀ cmd : Word, decodeRow opc cmd = decodeQ cmd f) : WordQ opc f := by
  intro s cmd din rest a b c d ho ha hb hc hdd
  obtain ⟨hz, hd⟩ | ⟨hz, hd⟩ := decodeQ_cases cmd f <;> rw [← h, ← decode_of_opcode ho] at hd
  · rw [aField, bField, cField, dField, nibble_eq ha, nibble_eq hb, nibble_eq hc, nibble_eq hdd] at hd
    rw [if_pos hz]
    exact step_issuing_ok hd
  · rw [if_neg hz]
    exact step_issuing_error hd

/-- A command whose first check is Busy. -/
theorem busyInSession_of_checks {i : Instr} {checks : State → List (Bool × ErrorCode)} {f : State → State}
    (h : ∀ s, exec i s = command (s.busyCheck :: checks s) f s) : BusyInSession i := by
  intro s hs
  rw [h, command_of_fault (c := .busy)]
  · rfl
  · simp [State.busyCheck, hs]

/-- A command whose checks are Busy and the lengths. -/
theorem checksLengths_of_checks {i : Instr} {f : State → State}
    (h : ∀ s, exec i s = command (s.busyCheck :: s.lengthChecks) f s) : ChecksLengths i := by
  intro s hs
  refine ⟨fun hk => ?_, fun hk hn => ?_⟩
  · rw [h, command_of_fault (c := .invalidKeyLength)]
    · rfl
    · simp [State.busyCheck, State.lengthChecks, hs, hk]
  · rw [h, command_of_fault (c := .invalidNonceLength)]
    · rfl
    · simp [State.busyCheck, State.lengthChecks, hs, hk, hn]

end Sys2Proof.Machine
end

