-- ==== Sys2Proof/Tests/Slice0.lean ====
section
/-! SUPPORT. The model's own tests: the check of WellFormed, a word for every command, the vectors of
95_test_vectors.md one step at a time, and for every statement with hypotheses a state that meets them. Every expected
value is the spec's. -/

namespace Sys2Proof.Tests

open Sys2Proof.Machine Sys2Proof.Safety

/-! ## Helpers -/

/-- The step ended in a next state of which `p` holds. -/
def ends (o : Host.Outcome State Fault Refusal) (p : State → Bool) : Bool :=
  match o with
  | .next t => p t
  | .fault _ => false
  | .refused _ => false

/-- The state with a data input. -/
def withDin (d : Word) (s : State) : State := { s with din := d }

/-- Zero key and nonce loaded, counter 0 (V-BLK-1). -/
def loaded : State := { State.reset with klen := 32, nlen := 12 }

/-- The key 00 01 .. 1f of V-PERM-1. -/
def key1 : Vector Byte 32 := Vector.ofFn fun j => BitVec.ofNat 8 j.val

/-- The nonce of V-PERM-1. -/
def nonce1 : Vector Byte 12 := #v[0, 0, 0, 9, 0, 0, 0, 0x4A, 0, 0, 0, 0]

/-- Key, nonce and counter of V-PERM-1. -/
def loaded1 : State := { loaded with key := key1, nonce := nonce1, counter := 1 }

/-- The initial state of V-PERM-1. -/
def start1 : Words :=
  #v[0x61707865, 0x3320646e, 0x79622d32, 0x6b206574, 0x03020100, 0x07060504, 0x0b0a0908, 0x0f0e0d0c,
    0x13121110, 0x17161514, 0x1b1a1918, 0x1f1e1d1c, 0x00000001, 0x09000000, 0x4a000000, 0x00000000]

/-- A session just begun (V-STR-3). -/
def session : State := { loaded with sess := true }

/-- The same session after `n` bytes of its first block. -/
def inBlock (n : Fin 65) : State :=
  { session with
    s := initState session.key session.nonce 0, w := finalWords (initState session.key session.nonce 0)
    ks := keystreamBlock session.key session.nonce 0, ksv := true, ctrn := 1, blks := 1, pos := n }

/-- The constructed state of V-STR-10: 2^32 blocks generated. -/
def spent (p : Fin 65) : State := { session with blks := 0x100000000, ctrn := 5, counter := 5, pos := p }

/-! ## WellFormed -/

/-- The one check of WellFormed refuses an index of 5 and of 15 (R79). -/
theorem test_rdr_index_refused : (Instr.rdr 5).wellFormed = false ∧ (Instr.rdr 15).wellFormed = false := by decide

/-- And admits 0 and 4. -/
theorem test_rdr_index_admitted : (Instr.rdr 0).wellFormed = true ∧ (Instr.rdr 4).wellFormed = true := by decide

/-! ## Decoding: one word for every command, from R76, R82 and R84 -/

theorem test_decode_control :
    decode 0x00000000 = .ok .nop ∧ decode 0x01000000 = .ok .rst ∧ decode 0x02000003 = .ok (.rdr 3) := by decide

theorem test_decode_load :
    decode 0x10000000 = .ok .kclr ∧ decode 0x11000000 = .ok .kb ∧ decode 0x12000000 = .ok .kw ∧
    decode 0x13000000 = .ok .nclr ∧ decode 0x14000000 = .ok .nb ∧ decode 0x15000000 = .ok .nw ∧
    decode 0x16000000 = .ok .ctrw := by decide

theorem test_decode_permutation :
    decode 0x20000000 = .ok .init ∧ decode 0x21349E00 = .ok (.qr 3 4 9 14) ∧ decode 0x22000000 = .ok .colr ∧
    decode 0x23000000 = .ok .diagr ∧ decode 0x24000000 = .ok .dblr ∧ decode 0x25000000 = .ok .ffwd ∧
    decode 0x26000003 = .ok (.ww 3) ∧ decode 0x27000002 = .ok (.wr 2) ∧ decode 0x2800000C = .ok (.sr 12) := by decide

theorem test_decode_block : decode 0x30000000 = .ok .block ∧ decode 0x3100000F = .ok (.ksr 15) := by decide

theorem test_decode_stream :
    decode 0x40000000 = .ok .sbegin ∧ decode 0x41000000 = .ok .xb ∧ decode 0x42000000 = .ok .xw ∧
    decode 0x43000000 = .ok .send := by decide

/-- The eight words of R84. -/
theorem test_encode_quarter_rounds :
    (columns ++ diagonals).map encode =
      [0x21048C00, 0x21159D00, 0x2126AE00, 0x2137BF00, 0x2105AF00, 0x2116BC00, 0x21278D00, 0x21349E00] := by decide

/-- V-CTL-5, V-CTL-6, V-CTL-7 and V-QR-5: words that are no command, by name. -/
theorem test_decode_rejects :
    decode 0x02000005 = .error .reservedIndex ∧ decode 0x00000001 = .error .reservedBits ∧
    decode 0x21048C01 = .error .reservedBits ∧ decode 0x02000010 = .error .reservedBits ∧
    decode 0xFF000000 = .error .unassignedOpcode := by decide

/-- The host's two entry points: bits 63..32 of a table word are DIN. -/
theorem test_table_word :
    decodeTableWord 32 0x21048C00 = some (.qr 0 4 8 12) ∧ decodeTableWord 32 0xFF000000 = none ∧
    (State.reset.withFetchWord 64 0x4433221112000000).inputs = [.command 0x12000000 0x44332211] := by decide

/-- The very next step runs the word that was placed. -/
theorem test_fetch_word_runs :
    ends (step (State.reset.withFetchWord 64 0x4433221112000000)) (fun t => t.status == 0x40000400) = true := by decide

/-! ## Words and bytes (V-ROT-1, V-ROT-2, V-LE-1) -/

theorem test_rotl :
    [16, 12, 8, 7].map (rotl 0x80000001) = [0x00018000, 0x00001800, 0x00000180, 0x000000C0] ∧
    [16, 12, 8, 7].map (rotl 0x12345678) = [0x56781234, 0x45678123, 0x34567812, 0x1A2B3C09] := by decide

theorem test_le4 : le4 0x11 0x22 0x33 0x44 = 0x44332211 ∧ [0, 1, 2, 3].map (byteOf 0x44332211) = [0x11, 0x22, 0x33, 0x44] := by
  decide

/-! ## Control -/

/-- V-CTL-2: NOP clears ERR and not FAULTED. -/
theorem test_nop : ends (exec .nop { State.reset with err := 1, faulted := true }) (fun t => t.status == 0x40000010) = true := by
  decide

/-- V-CTL-3: RST after `KW #1`, in a session. -/
theorem test_rst :
    ends (exec .rst { session with klen := 4, faulted := true }) (fun t => t.status == 0x40000000 && t.klen == 0) = true := by decide

/-- V-CTL-4. -/
theorem test_rdr_counter : ends (exec (.rdr 1) { State.reset with counter := 7 }) (fun t => t.dout == 7) = true := by decide

/-- P4: RDR 0 gives the STATUS before it, and BLKS[32] is RDR 4 (R92). -/
theorem test_rdr_status_and_blks :
    ends (exec (.rdr 0) { State.reset with err := 6, faulted := true })
      (fun t => t.dout == 0x40000016 && t.status == 0x40000010) = true ∧
    ends (exec (.rdr 4) (spent 64)) (fun t => t.dout == 1) = true := by decide

/-! ## Load -/

/-- R101's example. -/
theorem test_kclr :
    ends (exec .kclr { State.reset with key := Vector.replicate 32 0xFF, klen := 4 }) (fun t => t.klen == 0 && t.key[0] == 0) = true := by
  decide

/-- V-LD-2. -/
theorem test_kb : ends (exec .kb (withDin 0x100 State.reset)) (fun t => t.klen == 1 && t.key[0] == 0) = true := by decide

/-- V-LD-5: an overlong key shows 33 in STATUS. -/
theorem test_kb_overlong : ends (exec .kb loaded) (fun t => t.klen == 33 && t.status == 0x400C2100) = true := by decide

/-- V-LD-1. -/
theorem test_kw :
    ends (exec .kw (withDin 0x44332211 State.reset))
      (fun t => t.key.toList.take 5 == [0x11, 0x22, 0x33, 0x44, 0] && t.status == 0x40000400) = true := by decide

/-- V-LD-3: from KLEN 30 two bytes are stored and two are dropped. -/
theorem test_kw_overlong :
    ends (exec .kw (withDin 0x66554433 { State.reset with klen := 30 }))
      (fun t => t.klen == 33 && t.key.toList.drop 29 == [0, 0x33, 0x44]) = true := by decide

/-- R105's example. -/
theorem test_nclr :
    ends (exec .nclr { State.reset with nonce := Vector.replicate 12 1, nlen := 4 }) (fun t => t.nlen == 0 && t.nonce[0] == 0) = true := by
  decide

/-- V-LD-6. -/
theorem test_nb_overlong : ends (exec .nb loaded) (fun t => t.nlen == 13) = true := by decide

/-- V-LD-4. -/
theorem test_nw :
    ends (exec .nw (withDin 0x09000000 State.reset))
      (fun t => t.nonce.toList.take 5 == [0, 0, 0, 9, 0] && t.status == 0x40040000) = true := by decide

/-- V-LD-8. -/
theorem test_ctrw : ends (exec .ctrw (withDin 0xFFFFFFFF State.reset)) (fun t => t.counter == 0xFFFFFFFF && t.ctrn == 0) = true := by
  decide

/-! ## Permutation -/

/-- V-PERM-1. -/
theorem test_init : ends (exec .init loaded1) (fun t => t.s == start1 && t.w == start1 && t.status == 0x400C2000) = true := by
  decide +kernel

/-- V-QR-1. -/
theorem test_qr :
    ends (exec (.qr 0 1 2 3) { State.reset with w := #v[0x11111111, 0x01020304, 0x9B8D6F43, 0x01234567, 4, 5, 6, 7, 8, 9, 10, 11, 12, 13, 14, 15] })
      (fun t => t.w.toList == [0xEA2A92F4, 0xCB1CF8CE, 0x4581472E, 0x5881C4BB, 4, 5, 6, 7, 8, 9, 10, 11, 12, 13, 14, 15]) = true := by
  decide +kernel

/-- V-QR-4: the order of the operands matters. -/
theorem test_qr_order :
    ends (exec (.qr 13 8 7 2) { State.reset with w := Vector.ofFn fun i => BitVec.ofNat 32 i.val })
      (fun t => t.w[2] == 0x17F01670 && t.w[7] == 0x18071677 && t.w[8] == 0x03F33B34 && t.w[13] == 0x7000F016) = true := by
  decide +kernel

/-- V-PERM-2. -/
theorem test_colr :
    ends (exec .colr { loaded1 with w := start1, s := start1 })
      (fun t => t.w == #v[0xabbaa25c, 0x1efa51ea, 0x7354fbdf, 0x83d2dc69, 0x3a465196, 0x1c7e64f6, 0xb12fb628, 0xf05b6976,
        0x6b3ca454, 0x08eb14b1, 0xbf8a9ac9, 0xe444df3b, 0xdec62ed2, 0x8862cc77, 0x6e35b345, 0x52a647f1]) = true := by
  decide +kernel

/-- V-PERM-3. -/
theorem test_diagr :
    ends (exec .diagr { loaded1 with w := #v[0xabbaa25c, 0x1efa51ea, 0x7354fbdf, 0x83d2dc69, 0x3a465196, 0x1c7e64f6, 0xb12fb628, 0xf05b6976,
        0x6b3ca454, 0x08eb14b1, 0xbf8a9ac9, 0xe444df3b, 0xdec62ed2, 0x8862cc77, 0x6e35b345, 0x52a647f1] })
      (fun t => t.w == #v[0xcd52e917, 0x85ab03b4, 0xb3457395, 0xf96de7dd, 0xc4b7cd22, 0x5c2e187a, 0xc95eb461, 0x316c801a,
        0x7bf7d740, 0x7eddd644, 0xf1a1bdf5, 0x761246ca, 0x6b0d58a3, 0x6798471a, 0xd737f167, 0xf173888d]) = true := by
  decide +kernel

/-- V-PERM-3, the same words from one DBLR. -/
theorem test_dblr :
    ends (exec .dblr { loaded1 with w := start1, s := start1 })
      (fun t => t.w == #v[0xcd52e917, 0x85ab03b4, 0xb3457395, 0xf96de7dd, 0xc4b7cd22, 0x5c2e187a, 0xc95eb461, 0x316c801a,
        0x7bf7d740, 0x7eddd644, 0xf1a1bdf5, 0x761246ca, 0x6b0d58a3, 0x6798471a, 0xd737f167, 0xf173888d]) = true := by
  decide +kernel

/-- V-PERM-6. -/
theorem test_ffwd :
    ends (exec .ffwd { loaded1 with s := start1, w := #v[0x837778ab, 0xe238d763, 0xa67ae21e, 0x5950bb2f, 0xc4f2d0c7, 0xfc62bb2f, 0x8fa018fc, 0x3f5ec7b7,
        0x335271c2, 0xf29489f3, 0xeabda8fc, 0x82e46ebd, 0xd19c12b4, 0xb04e16de, 0x9e83d0cb, 0x4e3c50a2] })
      (fun t => t.w == #v[0xe4e7f110, 0x15593bd1, 0x1fdd0f50, 0xc47120a3, 0xc7f4d1c7, 0x0368c033, 0x9aaa2204, 0x4e6cd4c3,
        0x466482d2, 0x09aa9f07, 0x05d7c214, 0xa2028bd9, 0xd19c12b5, 0xb94e16de, 0xe883d0cb, 0x4e3c50a2]) = true := by
  decide +kernel

/-- V-PERM-8. -/
theorem test_ww : ends (exec (.ww 15) (withDin 0xFFFFFFFF State.reset)) (fun t => t.w[15] == 0xFFFFFFFF && t.w[14] == 0) = true := by
  decide

/-- V-PERM-8, and R130: in a session. -/
theorem test_wr : ends (exec (.wr 15) { session with w := State.reset.w.set 15 0xFFFFFFFF }) (fun t => t.dout == 0xFFFFFFFF) = true := by
  decide

/-- V-PERM-8: after an INIT, `SR 0` gives the first constant. -/
theorem test_sr : ends (exec (.sr 0) { State.reset with s := start1 }) (fun t => t.dout == 0x61707865) = true := by decide

/-! ## Block -/

/-- V-BLK-1. -/
theorem test_block :
    ends (exec .block loaded) (fun t => t.status == 0x400C2040 && t.ks ==
      #v[0x76, 0xb8, 0xe0, 0xad, 0xa0, 0xf1, 0x3d, 0x90, 0x40, 0x5d, 0x6a, 0xe5, 0x53, 0x86, 0xbd, 0x28,
        0xbd, 0xd2, 0x19, 0xb8, 0xa0, 0x8d, 0xed, 0x1a, 0xa8, 0x36, 0xef, 0xcc, 0x8b, 0x77, 0x0d, 0xc7,
        0xda, 0x41, 0x59, 0x7c, 0x51, 0x57, 0x48, 0x8d, 0x77, 0x24, 0xe0, 0x3f, 0xb8, 0xd8, 0x4a, 0x37,
        0x6a, 0x43, 0xb8, 0xf4, 0x15, 0x18, 0xa1, 0x1c, 0xc3, 0x87, 0xb6, 0x69, 0xb2, 0xee, 0x65, 0x86]) = true := by
  decide +kernel

/-- V-BLK-3. -/
theorem test_block_structured :
    ends (exec .block loaded1) (fun t => t.s == start1 && t.ks ==
      #v[0x10, 0xf1, 0xe7, 0xe4, 0xd1, 0x3b, 0x59, 0x15, 0x50, 0x0f, 0xdd, 0x1f, 0xa3, 0x20, 0x71, 0xc4,
        0xc7, 0xd1, 0xf4, 0xc7, 0x33, 0xc0, 0x68, 0x03, 0x04, 0x22, 0xaa, 0x9a, 0xc3, 0xd4, 0x6c, 0x4e,
        0xd2, 0x82, 0x64, 0x46, 0x07, 0x9f, 0xaa, 0x09, 0x14, 0xc2, 0xd7, 0x05, 0xd9, 0x8b, 0x02, 0xa2,
        0xb5, 0x12, 0x9c, 0xd1, 0xde, 0x16, 0x4e, 0xb9, 0xcb, 0xd0, 0x83, 0xe8, 0xa2, 0x50, 0x3c, 0x4e]) = true := by
  decide +kernel

/-- V-BLK-4, and R152's byte order. -/
theorem test_ksr :
    ends (exec (.ksr 0) State.reset) (fun t => t.dout == 0) = true ∧
    ends (exec (.ksr 15) { State.reset with ks := ((State.reset.ks.set 60 0xB2).set 61 0xEE).set 62 0x65 |>.set 63 0x86 })
      (fun t => t.dout == 0x8665EEB2) = true := by decide

/-! ## Stream -/

/-- V-STR-1: SBEGIN alone. -/
theorem test_sbegin : ends (exec .sbegin loaded) (fun t => t.status == 0x400C2020) = true := by decide

/-- V-STR-3: the first byte of a session. -/
theorem test_xb_first :
    ends (exec .xb session) (fun t => t.dout == 0x76 && t.status == 0x010C2060 && t.ctrn == 1 && t.blks == 1) = true := by
  decide +kernel

/-- V-STR-3: the second byte, its high DIN bits ignored (R75). -/
theorem test_xb_second : ends (exec .xb (withDin 0xABCDEFFF (inBlock 1))) (fun t => t.dout == 0x47 && t.pos == 2) = true := by
  decide +kernel

/-- V-STR-3: XW within a block. -/
theorem test_xw : ends (exec .xw (inBlock 2)) (fun t => t.dout == 0xF1A0ADE0 && t.pos == 6) = true := by decide +kernel

/-- V-STR-7: XW across two blocks. -/
theorem test_xw_straddles :
    ends (exec .xw (inBlock 61)) (fun t => t.dout == 0x9F8665EE && t.status == 0x010C2060 && t.blks == 2 && t.ctrn == 2) = true := by
  decide +kernel

/-- V-STR-3 and V-STR-9. -/
theorem test_send :
    ends (exec .send { session with pos := 6, ksv := true, ctrn := 1, blks := 1 })
      (fun t => t.status == 0x060C2040 && t.ctrn == 1 && t.blks == 1) = true ∧
    ends (exec .send State.reset) (fun t => t.status == 0x40000000) = true := by decide

/-! ## Faults -/

/-- V-EXC-1, V-LD-7, V-STR-8 and V-STR-9: the check order. -/
theorem test_check_order :
    ends (step (issuing State.reset 0x21008C01 0 [])) (fun t => t.err == 3) = true ∧
    ends (step (issuing State.reset 0x21008C00 0 [])) (fun t => t.err == 4) = true ∧
    ends (step (issuing session 0x21008C00 0 [])) (fun t => t.err == 5) = true ∧
    ends (step (issuing session 0x11000000 1 [])) (fun t => t.err == 5 && t.klen == 32) = true ∧
    ends (step (issuing State.reset 0x30000000 0 [])) (fun t => t.err == 1 && t.status == 0x40000011) = true ∧
    ends (step (issuing State.reset 0x41000000 0x55 [])) (fun t => t.err == 6 && t.dout == 0) = true := by decide

/-- V-STR-10. -/
theorem test_exhaustion :
    ends (exec .xb (spent 64)) (fun t => t.status == 0x400C2037) = true ∧
    ends (exec .xw (spent 60)) (fun t => t.err == 0 && t.pos == 64) = true ∧
    ends (exec .xw (spent 61)) (fun t => t.err == 7 && t.pos == 61) = true := by decide

/-- The RESET input on the host's list (R210, R211). -/
theorem test_reset_input :
    ends (step { session with inputs := [.reset, .command 0 0] }) (fun t => t.status == 0x40000000 && t.inputs == [.command 0 0]) = true := by
  decide

/-! ## What the statements assume can be met

One theorem for each statement with hypotheses, a conjunct for each clause. -/

theorem witness_DecodeOfEncodeIsTheCommand :
    (Instr.rdr 4).wellFormed = true ∧ (Instr.qr 15 0 8 3).wellFormed = true ∧ (Instr.ksr 15).wellFormed = true ∧
    Instr.xb.wellFormed = true := by decide

theorem witness_EncodeOfDecodeIsTheWord : decode 0x02000004 = .ok (.rdr 4) ∧ decode 0x21FEDC00 = .ok (.qr 15 14 13 12) := by decide

/-- RDR's row, at its largest index and just past it. -/
theorem witness_DecodeAcceptsExactlyTheOpcodeMap :
    (0x02000004#32 &&& 0xFFFFFFF0 = 0x02000000 ∧ (0x02000004#32).extractLsb' 0 4 ≤ 4) ∧
    (0x02000005#32 &&& 0xFFFFFFF0 = 0x02000000 ∧ ¬ (0x02000005#32).extractLsb' 0 4 ≤ 4) := by decide

theorem witness_OpcodeRowsAreDisjoint :
    (0x21000000#32, 0xFF0000FF#32) ∈ opcodeRows ∧ 0x21048C00#32 &&& 0xFF0000FF = 0x21000000 := by decide

theorem witness_StepRunsTheDecodedCommand :
    (issuing State.reset 0x16000000 7 []).inputs = [.command 0x16000000 7] ∧ decode 0x16000000 = .ok .ctrw := by decide

/-- The ends of the five ranges of R77. -/
theorem witness_UnassignedOpcodeIsIllegal :
    [0x03000000#32, 0x0F000000#32, 0x17000000#32, 0x1F000000#32, 0x29000000#32, 0x2F000000#32, 0x32000000#32, 0x3F000000#32,
      0x44000000#32, 0xFF000000#32].all (fun cmd => unassignedOpcode (cmd.extractLsb' 24 8).toNat) = true := by decide

/-- A NOP with a reserved bit set, and an unassigned opcode. -/
theorem witness_UnmatchedWordIsIllegal :
    [0x00000001#32, 0x44000000#32].all (fun cmd => opcodeRows.all fun row => cmd &&& row.2 != row.1) = true := by decide

theorem witness_IdleStepHoldsTheState : State.reset.inputs = [] := rfl

/-- Format N: a word of every opcode, with its reserved bits 0 and not 0; a state in a session for Busy, and one outside. -/
theorem witness_format_n_rules :
    [0x00#8, 0x01, 0x10, 0x11, 0x12, 0x13, 0x14, 0x15, 0x16, 0x20, 0x22, 0x23, 0x24, 0x25, 0x30, 0x40, 0x41, 0x42, 0x43].all
      (fun opc => (opc ++ 0#24).extractLsb' 24 8 == opc && (opc ++ 0#24).extractLsb' 0 24 == 0 &&
        (opc ++ 1#24).extractLsb' 24 8 == opc && (opc ++ 1#24).extractLsb' 0 24 != 0) = true ∧
    session.sess = true ∧ State.reset.sess = false := by decide

/-- Format I: the words of RDR, WW, WR, SR and KSR at index 15 and at RDR's bounds. -/
theorem witness_format_i_rules :
    [0x02#8, 0x26, 0x27, 0x28, 0x31].all
      (fun opc => (opc ++ 0#20 ++ 15#4).extractLsb' 24 8 == opc && ((opc ++ 0#20 ++ 15#4).extractLsb' 0 4).toNat == 15 &&
        (opc ++ 0#20 ++ 15#4).extractLsb' 4 20 == 0 && (opc ++ 1#20 ++ 4#4).extractLsb' 4 20 != 0) = true ∧
    (∃ idx : Fin 16, 4 < idx.val) := by decide

/-- Format Q. -/
theorem witness_format_q_rule :
    (0x21348F00#32).extractLsb' 24 8 = 0x21 ∧ ((0x21348F00#32).extractLsb' 20 4).toNat = 3 ∧
    ((0x21348F00#32).extractLsb' 16 4).toNat = 4 ∧ ((0x21348F00#32).extractLsb' 12 4).toNat = 8 ∧
    ((0x21348F00#32).extractLsb' 8 4).toNat = 15 ∧ (0x21348F00#32).extractLsb' 0 8 = 0 := by decide

/-- `CheckLengths`: a wrong key, a right key with a wrong nonce, and both right (INIT, BLOCK and SBEGIN). -/
theorem witness_length_rules :
    (State.reset.sess = false ∧ State.reset.klen ≠ 32) ∧
    (let s : State := { loaded with nlen := 13 }; s.sess = false ∧ s.klen = 32 ∧ s.nlen ≠ 12) ∧
    (loaded.sess = false ∧ loaded.klen = 32 ∧ loaded.nlen = 12) := by decide

/-- KB and KW: an empty key, byte 31, a full key and an overlong one. -/
theorem witness_key_rules :
    (State.reset.sess = false ∧ State.reset.klen.val < 32) ∧
    (let s : State := { State.reset with klen := 31 }; s.sess = false ∧ s.klen.val < 32) ∧
    (loaded.sess = false ∧ 32 ≤ loaded.klen.val) ∧
    (let s : State := { State.reset with klen := 33 }; s.sess = false ∧ 32 ≤ s.klen.val) := by decide

/-- NB and NW: an empty nonce, byte 11, a full nonce and an overlong one. -/
theorem witness_nonce_rules :
    (State.reset.sess = false ∧ State.reset.nlen.val < 12) ∧
    (let s : State := { State.reset with nlen := 11 }; s.sess = false ∧ s.nlen.val < 12) ∧
    (loaded.sess = false ∧ 12 ≤ loaded.nlen.val) ∧
    (let s : State := { State.reset with nlen := 13 }; s.sess = false ∧ 12 ≤ s.nlen.val) := by decide

/-- Each of the four loads that go one too far. -/
theorem witness_SecondLoadWithoutClearFaults :
    loaded.sess = false ∧ loaded.klen = 32 ∧ loaded.nlen = 12 ∧ (∃ t, exec .kb loaded = .next t) ∧
    (∃ t, exec .kw loaded = .next t) ∧ (∃ t, exec .nb loaded = .next t) ∧ ∃ t, exec .nw loaded = .next t :=
  ⟨by decide, by decide, by decide, exec_answers _ _, exec_answers _ _, exec_answers _ _, exec_answers _ _⟩

/-- QR: equal first and last indices, and distinct ones. -/
theorem witness_QrRule :
    ∃ a b c d : Fin 16, State.reset.sess = false ∧ (a ≠ b ∧ a ≠ c ∧ a ≠ d ∧ b ≠ c ∧ b ≠ d ∧ c ≠ d) ∧
      [(a, a, c, d), (a, b, a, d), (a, b, c, a), (a, b, b, d), (a, b, c, b), (a, b, c, c)].all
        (fun q => !pairwiseDistinct q.1 q.2.1 q.2.2.1 q.2.2.2) = true :=
  ⟨0, 4, 8, 15, by decide⟩

theorem witness_DisjointQuarterRoundsCommute :
    State.reset.sess = false ∧ ([0, 4, 8, 12, 3, 7, 11, 15] : List (Fin 16)).Nodup := by decide

theorem witness_KsrShowsTheFinalWords : ∃ t, exec .block loaded = .next t ∧ t.err = 0 :=
  ⟨_, (exec_block loaded).trans (command_of_pass (firstFault_lengths rfl rfl rfl)), rfl⟩

/-- Two states that agree on key, nonce and counter and differ elsewhere. -/
theorem witness_BlockDependsOnlyOnKeyNonceAndCounter :
    ∃ s1 s2 t1 t2 : State, s1.key = s2.key ∧ s1.nonce = s2.nonce ∧ s1.counter = s2.counter ∧ s1.dout ≠ s2.dout ∧
      exec .block s1 = .next t1 ∧ exec .block s2 = .next t2 ∧ t1.err = 0 ∧ t2.err = 0 :=
  ⟨loaded, { loaded with dout := 1 }, _, _, rfl, rfl, rfl, by decide,
    (exec_block _).trans (command_of_pass (firstFault_lengths rfl rfl rfl)),
    (exec_block _).trans (command_of_pass (firstFault_lengths rfl rfl rfl)), rfl, rfl⟩

theorem witness_StepwisePermutationEqualsBlock : loaded1.sess = false ∧ loaded1.klen = 32 ∧ loaded1.nlen = 12 := by decide

/-- XB: no session, exhausted, the last byte of a block, and a generation. -/
theorem witness_XbRule :
    State.reset.sess = false ∧ ((spent 64).sess = true ∧ (spent 64).pos = 64 ∧ (spent 64).blks = 0x100000000) ∧
    ((spent 63).sess = true ∧ (spent 63).pos.val < 64) ∧
    (session.sess = true ∧ session.pos = 64 ∧ session.blks ≠ 0x100000000) := by decide

/-- XW: no session, exhausted at POS 61, the last four bytes of a block, and a generation from POS 61 and 64. -/
theorem witness_XwRule :
    State.reset.sess = false ∧ ((spent 61).sess = true ∧ 61 ≤ (spent 61).pos.val ∧ (spent 61).blks = 0x100000000) ∧
    ((spent 60).sess = true ∧ (spent 60).pos.val ≤ 60) ∧
    (let s : State := { session with pos := 61 }; s.sess = true ∧ 61 ≤ s.pos.val ∧ s.blks ≠ 0x100000000) ∧
    (session.sess = true ∧ 61 ≤ session.pos.val ∧ session.blks ≠ 0x100000000) := by decide

theorem witness_XwIsFourXb :
    (session.sess = true ∧ ¬ (61 ≤ session.pos.val ∧ session.blks = 0x100000000)) ∧
    ((spent 60).sess = true ∧ ¬ (61 ≤ (spent 60).pos.val ∧ (spent 60).blks = 0x100000000)) := by decide

theorem witness_WordLoadsAreFourByteLoads : State.reset.sess = false := rfl

theorem witness_FaultChangesOnlyErrAndFaulted : ∃ t, step (issuing State.reset 0x30000000 0 []) = .next t ∧ t.err ≠ 0 :=
  ⟨_, rfl, by decide⟩

/-- RST clears FAULTED; BLKS at its largest value. -/
theorem witness_RstRule_RdrRule :
    (∃ t, exec .rst { session with faulted := true } = .next t ∧ t.faulted = false) ∧ (spent 64).blks.toNat ≤ 2 ^ 32 ∧
    ∃ t, exec (.rdr 4) (spent 64) = .next t :=
  ⟨⟨_, rfl, rfl⟩, by decide, exec_answers _ _⟩

/-- A success that is not RST, and RST. -/
theorem witness_SuccessLeavesFaulted :
    (∃ t, exec .send session = .next t ∧ t.err = 0) ∧ ∃ t, exec .rst session = .next t ∧ t.err = 0 :=
  ⟨⟨_, rfl, rfl⟩, ⟨_, rfl, rfl⟩⟩

/-- FAULTED before a NOP, before RST and before RESET. -/
theorem witness_FaultedIsSticky :
    let s : State := { State.reset with faulted := true }
    s.faulted = true ∧ (∃ t, step (issuing s 0 0 []) = .next t ∧ t.faulted = true) ∧
    (∃ t, step (issuing s 0x01000000 0 []) = .next t ∧ t.faulted = false) ∧
    ∃ t, step { s with inputs := [.reset] } = .next t ∧ t.faulted = false :=
  ⟨rfl, ⟨_, rfl, rfl⟩, ⟨_, rfl, rfl⟩, ⟨_, rfl, rfl⟩⟩

/-- A word that is no command, and words of commands that report a code. -/
theorem witness_ReportedCodeFollowsTheCheckOrder :
    decode 0x02000005 = .error .reservedIndex ∧ decode 0x21008C00 = .ok (.qr 0 0 8 12) ∧
    reportedCode (.qr 0 0 8 12) session = 5 ∧ reportedCode (.qr 0 0 8 12) loaded = 4 ∧ reportedCode .init State.reset = 1 ∧
    reportedCode .xb (spent 64) = 7 ∧ reportedCode .xw (spent 60) = 0 := by decide

/-- A command that is Busy, and one that runs, in a session. -/
theorem witness_SessionLocksKeyNonceAndCounter :
    session.sess = true ∧ allowedInSession .kb = false ∧ (∃ t, exec .kb session = .next t) ∧ ∃ t, exec .send session = .next t :=
  ⟨rfl, rfl, exec_answers _ _, exec_answers _ _⟩

/-- COLR writes W and no other row. -/
theorem witness_RegistersChangeOnlyByTheirCommands :
    (∃ t, exec .colr loaded = .next t) ∧ writtenBy .w .colr = true ∧
    [Row.s, .ks, .key, .nonce, .counter, .sess, .ctrnBlks, .pos, .ksv, .dout].all (fun r => !writtenBy r .colr) = true :=
  ⟨exec_answers _ _, rfl, by decide⟩

/-- KB with two DIN words that agree in bits 7..0. -/
theorem witness_UnreadDinBitsAreIgnored :
    0x1AB#32 &&& dinMask .kb = (withDin 0xAB State.reset).din &&& dinMask .kb ∧ ∃ t, exec .kb (withDin 0xAB State.reset) = .next t :=
  ⟨by decide, exec_answers _ _⟩

/-- The invariant holds in a session that has generated a block (V-STR-3 after its first byte). -/
theorem inBlock_inv : Inv (inBlock 1) where
  blks_le := by decide
  err_le := by decide
  err_faulted := by decide
  key_tail := by decide
  nonce_tail := by decide
  ks_unset := fun h => absurd h (by decide)
  pos_ne_zero := by decide
  pos_ksv := fun _ => rfl
  fresh := fun h => absurd h (by decide)
  session_lengths := fun _ => ⟨rfl, rfl⟩
  session_counter := fun _ => by decide
  session_block := fun _ _ => ⟨rfl, rfl, rfl⟩

theorem witness_EveryStepKeepsTheInvariant : ∃ t, Inv (inBlock 1) ∧ step (inBlock 1) = .next t := ⟨_, inBlock_inv, rfl⟩

theorem witness_SessionByteUsesItsKeystreamByte :
    Inv (inBlock 1) ∧ (inBlock 1).sess = true ∧ sessionOffset (inBlock 1) < 2 ^ 38 ∧ sessionOffset (inBlock 1) = 1 :=
  ⟨inBlock_inv, rfl, by decide, by decide⟩

/-- No data, a full block and one byte more. -/
theorem witness_SessionIsApply :
    loaded.sess = false ∧ loaded.klen = 32 ∧ loaded.nlen = 12 ∧ ([] : List Byte).length ≤ 2 ^ 38 ∧
    (List.replicate 64 (0 : Byte)).length ≤ 2 ^ 38 ∧ (List.replicate 65 (0 : Byte)).length ≤ 2 ^ 38 := by decide

theorem witness_ApplyTwiceGivesTheDataBack :
    loaded1.sess = false ∧ loaded1.klen = 32 ∧ loaded1.nlen = 12 ∧ ([0x4C, 0x61] : List Byte).length ≤ 2 ^ 38 := by decide

/-- LOAD from a state with an overlong key, and what it leaves (V-LD-5, V-PERM-1). -/
theorem witness_LoadFillsKeyNonceAndCounter :
    let s : State := { State.reset with klen := 33, inputs := loadInputs #v[0x03020100, 0x07060504, 0x0B0A0908, 0x0F0E0D0C,
      0x13121110, 0x17161514, 0x1B1A1918, 0x1F1E1D1C] #v[0x09000000, 0x4A000000, 0] 1 ++ [.reset] }
    s.sess = false ∧
    ends (Host.Core.run Sys2Proof.core 14 s)
      (fun t => t.key == key1 && t.nonce == nonce1 && t.klen == 32 && t.nlen == 12 && t.counter == 1 && t.inputs == [.reset]) = true := by
  decide +kernel

end Sys2Proof.Tests
end

/-! SUPPORT. STATUS as bit fields, the reset state, and the registers that each command leaves alone. -/

namespace Sys2Proof.Machine

/-! ## STATUS as fields of a word (R34) -/

/-- The word that holds the bits of `x` from bit `lo` on and 0 elsewhere. -/
def fieldAt {k : Nat} (x : BitVec k) (lo : Nat) : Word := x.setWidth 32 <<< lo

/-- A field that fits in the word reads back. -/
theorem extract_fieldAt_same {k : Nat} (x : BitVec k) (lo : Nat) (h : lo + k ≤ 32) :
    (fieldAt x lo).extractLsb' lo k = x := by
  ext j hj
  simp [fieldAt, show lo + j < 32 by omega, hj]

/-- A field shows no bit outside its own range. -/
theorem extract_fieldAt_of_disjoint {k : Nat} (x : BitVec k) {lo p n : Nat} (h : p + n ≤ lo ∨ lo + k ≤ p) :
    (fieldAt x lo).extractLsb' p n = 0 := by
  ext j hj
  have : lo ≤ p + j → x.getLsbD (p + j - lo) = false := fun _ => BitVec.getLsbD_of_ge x _ (by omega)
  simp +contextual [fieldAt, this]

/-- STATUS is its seven fields. -/
theorem State.status_eq_fields (s : State) : s.status =
    fieldAt (BitVec.ofNat 7 s.pos.val) 24 ||| fieldAt (BitVec.ofNat 4 s.nlen.val) 16 |||
    fieldAt (BitVec.ofNat 6 s.klen.val) 8 ||| fieldAt (BitVec.ofBool s.ksv) 6 ||| fieldAt (BitVec.ofBool s.sess) 5 |||
    fieldAt (BitVec.ofBool s.faulted) 4 ||| fieldAt s.err 0 := by
  have hp := BitVec.setWidth_ofNat_of_le_of_lt (x := s.pos.val) (show 7 ≤ 32 by decide) (by omega)
  have hn := BitVec.setWidth_ofNat_of_le_of_lt (x := s.nlen.val) (show 4 ≤ 32 by decide) (by omega)
  have hk := BitVec.setWidth_ofNat_of_le_of_lt (x := s.klen.val) (show 6 ≤ 32 by decide) (by omega)
  simp only [State.status, fieldAt, hp, hn, hk, BitVec.shiftLeft_zero]

end Sys2Proof.Machine

namespace Sys2Proof.Safety

open Sys2Proof.Machine

/-- Settles O12: a field reads its own register, and the six others show 0 there. -/
theorem statusShowsItsFields : Obligations.StatusShowsItsFields := by
  intro s
  have hp := s.pos.isLt
  have hk := s.klen.isLt
  have hn := s.nlen.isLt
  have hflag (b : Bool) : BitVec.ofBool b = 1#1 ↔ b = true := by cases b <;> decide
  refine ⟨?_, ?_, ?_, ?_, ?_, ?_, ?_, ?_, ?_, ?_, ?_⟩ <;>
    simp (disch := omega) [State.status_eq_fields, extract_or, extract_fieldAt_same, extract_fieldAt_of_disjoint, hflag,
      Nat.mod_eq_of_lt]

/-! ## Reset -/

/-- Every register has its reset value after RESET or RST, from any state (R40, R211). -/
theorem registersReset_resetRegisters (s : State) : RegistersReset s.resetRegisters := by
  have hstatus : s.resetRegisters.status = 0x40000000 := show State.reset.status = _ by decide
  simp [RegistersReset, State.reset, hstatus]

/-- Settles O11: a reset of the reset state changes nothing. -/
theorem resetValues : Obligations.ResetValues := registersReset_resetRegisters State.reset

/-- Settles O10: RESET and RST both end in `resetRegisters`. -/
theorem resetInputAndRstResetEveryRegister : Obligations.ResetInputAndRstResetEveryRegister := fun s rest =>
  ⟨(s.dropInput rest).resetRegisters, rfl, rfl, registersReset_resetRegisters _, rfl, rfl⟩

/-! ## The access matrix (R39) -/

/-- The registers of a row of R39's access matrix are the same in both states. -/
def Row.Kept (s t : State) : Row → Prop
  | .w => t.w = s.w
  | .s => t.s = s.s
  | .ks => t.ks = s.ks
  | .key => t.key = s.key ∧ t.klen = s.klen
  | .nonce => t.nonce = s.nonce ∧ t.nlen = s.nlen
  | .counter => t.counter = s.counter
  | .sess => t.sess = s.sess
  | .ctrnBlks => t.ctrn = s.ctrn ∧ t.blks = s.blks
  | .pos => t.pos = s.pos
  | .ksv => t.ksv = s.ksv
  | .dout => t.dout = s.dout

/-- Raising a fault writes ERR and FAULTED, which are in no row (R182). -/
theorem Row.kept_raise (r : Row) (s : State) (c : ErrorCode) : r.Kept s (s.raise c) := by
  cases r <;> simp [Row.Kept]

/-- Succeeding writes ERR, which is in no row (R184). -/
theorem Row.Kept.succeed {r : Row} {s t : State} (h : r.Kept s t) : r.Kept s t.succeed := by
  cases r <;> exact h

/-- What holds of every row, row by row. -/
theorem Row.forall_iff {p : Row → Prop} : (∀ r, p r) ↔
    p .w ∧ p .s ∧ p .ks ∧ p .key ∧ p .nonce ∧ p .counter ∧ p .sess ∧ p .ctrnBlks ∧ p .pos ∧ p .ksv ∧ p .dout :=
  ⟨fun h => ⟨h _, h _, h _, h _, h _, h _, h _, h _, h _, h _, h _⟩,
    fun ⟨_, _, _, _, _, _, _, _, _, _, _⟩ r => by cases r <;> assumption⟩

/-- Command by command, the rows that R39 does not give to it are fields that its operation leaves alone. -/
theorem effectOf_keeps_row (i : Instr) (s : State) : ∀ r : Row, writtenBy r i = false → r.Kept s (effectOf i s) := by
  rw [Row.forall_iff]
  cases i <;> simp [writtenBy, rowsWritten, Row.Kept, effectOf]

/-- No command touches a row that R39 does not give to it, whether it faults or takes effect. -/
theorem exec_keeps_row {i : Instr} {s t : State} (h : exec i s = .next t) (r : Row) (hr : writtenBy r i = false) :
    r.Kept s t := by
  obtain ⟨c, -, rfl⟩ | ⟨-, rfl⟩ := exec_cases h
  · exact r.kept_raise s c
  · exact (effectOf_keeps_row i s r hr).succeed

/-- No command touches the host's side of the interface (log entry 1). -/
theorem exec_keeps_host_side {i : Instr} {s t : State} (h : exec i s = .next t) : t.din = s.din ∧ t.inputs = s.inputs := by
  obtain ⟨c, -, rfl⟩ | ⟨-, rfl⟩ := exec_cases h
  · exact ⟨rfl, rfl⟩
  · obtain ⟨hdin, hinputs, -⟩ := effectOf_frame i s
    exact ⟨hdin, hinputs⟩

/-- Settles O51, row by row of the access matrix. -/
theorem registersChangeOnlyByTheirCommands : Obligations.RegistersChangeOnlyByTheirCommands := by
  intro i s t h
  have kept := exec_keeps_row h
  exact ⟨kept .w, kept .s, kept .ks, kept .key, kept .nonce, kept .counter, kept .sess, kept .ctrnBlks, kept .pos,
    kept .ksv, kept .dout, exec_keeps_host_side h⟩

end Sys2Proof.Safety

/-! SUPPORT. What keeps the invariant of a safe run: the updates of the state one by one, then every effect, then a step. -/

namespace Sys2Proof.Machine

open Sys2Proof.Safety

variable {s : State}

/-! ## What the checks say of a state in which they pass -/

/-- A command that checks Busy first takes effect only outside a session (R70). -/
theorem sess_of_busy_passes {l : List (Bool × ErrorCode)} (h : firstFault (s.busyCheck :: l) = none) : s.sess = false :=
  firstFault_eq_none.1 h s.busyCheck (List.mem_cons_self ..)

/-- A command that checks the lengths takes effect only with a full key and nonce (R121). -/
theorem lengths_of_lengthChecks_pass {p : Bool × ErrorCode} (h : firstFault (p :: s.lengthChecks) = none) :
    s.klen = 32 ∧ s.nlen = 12 := by
  have hall := firstFault_eq_none.1 h
  simp only [State.lengthChecks, List.forall_mem_cons, decide_eq_false_iff_not, ne_eq, not_not] at hall
  obtain ⟨-, hk, hn, -⟩ := hall
  exact ⟨hk, hn⟩

/-- The session can hand out `n` more keystream bytes (R163, R164, R167). -/
def State.HasBytes (s : State) (n : Nat) : Prop :=
  s.sess = true ∧ ¬ (64 < s.pos.val + n ∧ s.blks = Config.maxBlocks)

/-- XB and XW take effect only when the bytes they need can be had. -/
theorem hasBytes_of_stream_passes {n : Nat} (h : firstFault [s.sessionCheck, s.exhaustionCheck n] = none) :
    s.HasBytes n := by
  have hall := firstFault_eq_none.1 h
  simp only [State.sessionCheck, State.exhaustionCheck, List.forall_mem_cons, Bool.not_eq_false', Bool.and_eq_false_iff,
    decide_eq_false_iff_not] at hall
  obtain ⟨hs, hb, -⟩ := hall
  exact ⟨hs, Classical.not_and_iff_not_or_not.2 hb⟩

/-- Taking one byte leaves the others to be had: at most 63 of them come from the same block. -/
theorem State.HasBytes.nextKeyByte {n : Nat} (h : s.HasBytes (n + 1)) (hn : n ≤ 63) : s.nextKeyByte.2.HasBytes n := by
  obtain ⟨hs, hb⟩ := h
  obtain hp | hp := s.pos_cases
  · rw [State.nextKeyByte_of_lt hp]
    refine ⟨hs, fun ⟨hlt, hmax⟩ => hb ⟨?_, hmax⟩⟩
    have hlt : 64 < s.pos.val + 1 + n := hlt
    omega
  · rw [State.nextKeyByte_of_eq hp]
    refine ⟨hs, fun ⟨hlt, _⟩ => ?_⟩
    have hlt : 64 < 1 + n := hlt
    omega

end Sys2Proof.Machine

namespace Sys2Proof.Safety

open Sys2Proof.Machine

variable {s : State}

/-! ## Reset, the ends of a command, and the host's side -/

/-- The reset values meet the invariant (R40). -/
theorem inv_reset : Inv State.reset where
  blks_le := by decide
  err_le := by decide
  err_faulted := by decide
  key_tail := by decide
  nonce_tail := by decide
  ks_unset := fun _ => rfl
  pos_ne_zero := by decide
  pos_ksv := by decide
  fresh := fun _ => rfl
  session_lengths := by decide
  session_counter := by decide
  session_block := fun h => absurd h (by decide)

theorem inv_resetRegisters (s : State) : Inv s.resetRegisters := { inv_reset with }

theorem Inv.raise (hi : Inv s) (c : ErrorCode) : Inv (s.raise c) :=
  { hi with err_le := c.code_le, err_faulted := fun _ => rfl }

theorem Inv.succeed (hi : Inv s) : Inv s.succeed :=
  { hi with err_le := Nat.zero_le 7, err_faulted := fun h => absurd rfl h }

theorem Inv.output (hi : Inv s) (v : Word) : Inv (s.output v) := { hi with }

theorem Inv.accept (hi : Inv s) (din : Word) (rest : List HostInput) : Inv (s.accept din rest) := { hi with }

/-! ## Outside a session

The clauses about a session are void there, so COUNTER, the key, the nonce, W, S and KS may change. -/

theorem Inv.set_w_s_counter (hi : Inv s) (hs : s.sess = false) (w v : Words) (ctr : Word) :
    Inv { s with w := w, s := v, counter := ctr } :=
  { hi with
    session_counter := by simp [hs]
    session_block := by simp [hs] }

theorem Inv.set_key (hi : Inv s) (hs : s.sess = false) {key : Vector Byte 32} {n : Fin 34}
    (hk : ∀ j : Fin 32, n.val ≤ j.val → key[j] = 0) : Inv { s with key := key, klen := n } :=
  { hi with
    key_tail := hk
    session_lengths := by simp [hs]
    session_block := by simp [hs] }

theorem Inv.set_nonce (hi : Inv s) (hs : s.sess = false) {nonce : Vector Byte 12} {n : Fin 14}
    (hn : ∀ j : Fin 12, n.val ≤ j.val → nonce[j] = 0) : Inv { s with nonce := nonce, nlen := n } :=
  { hi with
    nonce_tail := hn
    session_lengths := by simp [hs]
    session_block := by simp [hs] }

theorem Inv.mapW (hi : Inv s) (hs : s.sess = false) (f : Words → Words) : Inv (s.mapW f) :=
  hi.set_w_s_counter hs (f s.w) s.s s.counter

/-- `KeyAppend` writes below the new KLEN only (R100). -/
theorem Inv.keyAppend (hi : Inv s) (hs : s.sess = false) (b : Byte) : Inv (s.keyAppend b) := by
  rw [State.keyAppend_frame]
  refine hi.set_key hs fun j hj => ?_
  rw [State.keyAppend_klen] at hj
  rw [State.keyAppend_key, if_neg (by omega)]
  exact hi.key_tail j (by omega)

/-- `NonceAppend` writes below the new NLEN only (R104). -/
theorem Inv.nonceAppend (hi : Inv s) (hs : s.sess = false) (b : Byte) : Inv (s.nonceAppend b) := by
  rw [State.nonceAppend_frame]
  refine hi.set_nonce hs fun j hj => ?_
  rw [State.nonceAppend_nlen] at hj
  rw [State.nonceAppend_nonce, if_neg (by omega)]
  exact hi.nonce_tail j (by omega)

theorem Inv.generate (hi : Inv s) (hs : s.sess = false) (ctr : Word) : Inv (s.generate ctr) :=
  { hi with
    ks_unset := by simp
    pos_ksv := by simp
    session_counter := by simp [hs]
    session_block := by simp [hs] }

/-! ## Beginning, using and ending a session -/

/-- SBEGIN starts the session's counter at COUNTER with no block generated (R162). -/
theorem Inv.begin_session (hi : Inv s) (hk : s.klen = 32) (hn : s.nlen = 12) :
    Inv { s with sess := true, ctrn := s.counter, blks := 0, pos := 64 } :=
  { hi with
    blks_le := by simp
    pos_ne_zero := by simp
    pos_ksv := by simp
    fresh := fun _ => rfl
    session_lengths := fun _ => ⟨hk, hn⟩
    session_counter := by simp
    session_block := by simp }

theorem Inv.end_session (hi : Inv s) : Inv { s with sess := false } :=
  { hi with
    session_lengths := by simp
    session_counter := by simp
    session_block := by simp }

/-- Taking a byte in hand moves POS only (R161). -/
theorem Inv.take_in_hand (hi : Inv s) (hp : s.pos.val < 64) : Inv { s with pos := ⟨s.pos.val + 1, by omega⟩ } :=
  { hi with
    pos_ne_zero := Nat.succ_ne_zero _
    pos_ksv := fun _ => hi.pos_ksv hp
    fresh := fun h => absurd (congrArg Fin.val (hi.fresh h)) (Nat.ne_of_lt hp) }

/-- Below the bound, BLKS counts without wrapping (R30, R167). -/
theorem Inv.blks_succ (hi : Inv s) (hb : s.blks ≠ Config.maxBlocks) :
    (s.blks + 1).toNat = s.blks.toNat + 1 ∧ s.blks.toNat < 2 ^ 32 := by
  have hlt : s.blks.toNat < 2 ^ 32 := Nat.lt_of_le_of_ne hi.blks_le fun h => hb (BitVec.eq_of_toNat_eq h)
  exact ⟨BitVec.toNat_add_of_lt (by simp; omega), hlt⟩

/-- Generating the session's next block makes S, W and KS those of the block before CTRN and keeps CTRN in step with BLKS
(R160, R161, R166). -/
theorem Inv.take_from_next_block (hi : Inv s) (hb : s.blks ≠ Config.maxBlocks) : Inv { s.nextBlock with pos := 1 } :=
  have ⟨hsucc, hlt⟩ := hi.blks_succ hb
  { hi with
    blks_le := by rw [State.nextBlock_blks, hsucc]; exact hlt
    ks_unset := by simp
    pos_ne_zero := by simp
    pos_ksv := by simp
    fresh := fun h => absurd (hsucc.symm.trans (congrArg BitVec.toNat h)) (Nat.succ_ne_zero _)
    session_counter := fun h => by
      have hc := hi.session_counter h
      simp [hc, BitVec.setWidth_add, BitVec.add_assoc]
    session_block := fun _ _ => by simp [keystreamBlock] }

/-- `NextKeyByte` keeps the invariant while the session may hand out a byte (R161, R167). -/
theorem Inv.nextKeyByte (hi : Inv s) {n : Nat} (hb : s.HasBytes (n + 1)) : Inv s.nextKeyByte.2 := by
  obtain ⟨-, hb⟩ := hb
  obtain hp | hp := s.pos_cases
  · rw [State.nextKeyByte_of_lt hp]
    exact hi.take_in_hand hp
  · rw [State.nextKeyByte_of_eq hp]
    exact hi.take_from_next_block fun hmax => hb ⟨by simp [hp], hmax⟩

theorem Inv.xorByte (hi : Inv s) (hb : s.HasBytes 1) (p : Byte) : Inv (s.xorByte p) := (hi.nextKeyByte hb).output _

/-- XW takes its four bytes one after another, and the check before the first covers them all (R164). -/
theorem Inv.xorWord (hi : Inv s) (hb : s.HasBytes 4) : Inv s.xorWord :=
  have hb3 := hb.nextKeyByte (by decide)
  have hb2 := hb3.nextKeyByte (by decide)
  have hb1 := hb2.nextKeyByte (by decide)
  ((((hi.nextKeyByte hb).nextKeyByte hb3).nextKeyByte hb2).nextKeyByte hb1).output _

/-! ## Every command and every step -/

/-- Each command's effect keeps the invariant where the command's checks pass. -/
theorem Inv.effectOf (hi : Inv s) {i : Instr} (hc : firstFault (checksOf i s) = none) : Inv (effectOf i s) := by
  cases i with
  | nop => exact hi
  | rst => exact inv_resetRegisters s
  | rdr _ | wr _ | sr _ | ksr _ => exact hi.output _
  | kclr => exact hi.set_key (sess_of_busy_passes hc) fun j _ => by simp
  | kb => exact hi.keyAppend (sess_of_busy_passes hc) _
  | kw =>
    have hs := sess_of_busy_passes hc
    exact (((hi.keyAppend hs _).keyAppend (by simpa) _).keyAppend (by simpa) _).keyAppend (by simpa) _
  | nclr => exact hi.set_nonce (sess_of_busy_passes hc) fun j _ => by simp
  | nb => exact hi.nonceAppend (sess_of_busy_passes hc) _
  | nw =>
    have hs := sess_of_busy_passes hc
    exact (((hi.nonceAppend hs _).nonceAppend (by simpa) _).nonceAppend (by simpa) _).nonceAppend (by simpa) _
  | ctrw => exact hi.set_w_s_counter (sess_of_busy_passes hc) s.w s.s s.din
  | init => exact hi.set_w_s_counter (sess_of_busy_passes hc) _ _ s.counter
  | qr a b c d => exact hi.mapW (sess_of_busy_passes hc) (quarterRound · a b c d)
  | colr | diagr | dblr => exact hi.mapW (sess_of_busy_passes hc) _
  | ffwd => exact hi.mapW (sess_of_busy_passes hc) (feedForward · s.s)
  | ww idx => exact hi.mapW (sess_of_busy_passes hc) (·.set idx s.din)
  | block => exact hi.generate (sess_of_busy_passes hc) _
  | sbegin =>
    obtain ⟨hk, hn⟩ := lengths_of_lengthChecks_pass hc
    exact hi.begin_session hk hn
  | xb => exact hi.xorByte (hasBytes_of_stream_passes hc) _
  | xw => exact hi.xorWord (hasBytes_of_stream_passes hc)
  | send => exact hi.end_session

/-- A command keeps the invariant, whether it faults or takes effect. -/
theorem Inv.exec {t : State} {i : Instr} (hi : Inv s) (h : exec i s = .next t) : Inv t := by
  obtain ⟨c, -, rfl⟩ | ⟨hc, rfl⟩ := exec_cases h
  · exact hi.raise c
  · exact (hi.effectOf hc).succeed

/-- Settles O53, the base of O54. -/
theorem resetMeetsTheInvariant : Obligations.ResetMeetsTheInvariant := inv_reset

/-- Settles O54, by the cases of a step: idle, reset, a word that is no command, or a command. -/
theorem everyStepKeepsTheInvariant : Obligations.EveryStepKeepsTheInvariant := by
  intro s t hi h
  obtain ⟨-, hstep⟩ | ⟨rest, -, hstep⟩ | ⟨cmd, din, rest, e, -, -, hstep⟩ | ⟨cmd, din, rest, i, -, -, hstep⟩ :=
    step_cases s <;> rw [hstep] at h
  · exact Host.Outcome.next.inj h ▸ hi
  · exact Host.Outcome.next.inj h ▸ inv_resetRegisters _
  · exact Host.Outcome.next.inj h ▸ (hi.accept din rest).raise .illegalCommand
  · exact (hi.accept din rest).exec h

end Sys2Proof.Safety

/-! SUPPORT. The opcode map command by command: the row of each, the word with its fields, and decoding as the inverse of
encoding. -/

namespace Sys2Proof

open Sys2Proof.Machine Sys2Proof.Safety

/-! ## The rows of R76 by command -/

/-- The mask of a command's row (R76): the opcode and the reserved bits of its format (R71). -/
def Instr.mask : Instr → Word
  | .qr .. => 0xFF0000FF
  | .rdr _ | .ww _ | .wr _ | .sr _ | .ksr _ => 0xFFFFFFF0
  | _ => 0xFFFFFFFF

/-- The (match, mask) pair of a command's row (R76). -/
def Instr.row (i : Instr) : Word × Word := (fieldAt i.opcode 24, i.mask)

theorem Instr.row_rdr (x : Fin 16) : (Instr.rdr x).row = (0x02000000, 0xFFFFFFF0) := by
  simp [Instr.row, Instr.mask, Instr.opcode, fieldAt]

/-- One command of each opcode, in the order of R76. -/
def Instr.ofEachOpcode : List Instr :=
  [.nop, .rst, .rdr 0, .kclr, .kb, .kw, .nclr, .nb, .nw, .ctrw, .init, .qr 0 0 0 0, .colr, .diagr, .dblr, .ffwd, .ww 0,
    .wr 0, .sr 0, .block, .ksr 0, .sbegin, .xb, .xw, .send]

theorem opcodeRows_eq_map_row : opcodeRows = Instr.ofEachOpcode.map Instr.row := by decide

/-- Every row is the row of one of those commands. -/
theorem exists_row_eq {r : Word × Word} (hr : r ∈ opcodeRows) : ∃ i ∈ Instr.ofEachOpcode, i.row = r := by
  rw [opcodeRows_eq_map_row] at hr
  exact List.mem_map.1 hr

theorem Instr.row_mem (i : Instr) : i.row ∈ opcodeRows := by
  cases i <;> simp [Instr.row, Instr.mask, Instr.opcode, opcodeRows, fieldAt]

/-- The opcodes outside R77's list are those of the commands. -/
theorem exists_opcode_eq {opc : BitVec 8} (h : unassignedOpcode opc.toNat = false) : ∃ i : Instr, i.opcode = opc := by
  have hall : ∀ opc : BitVec 8, unassignedOpcode opc.toNat = false → ∃ i ∈ Instr.ofEachOpcode, i.opcode = opc := by
    decide
  obtain ⟨i, -, hi⟩ := hall opc h
  exact ⟨i, hi⟩

/-- An opcode of R77's list selects no command. -/
theorem decodeRow_of_unassigned {opc : BitVec 8} (h : unassignedOpcode opc.toNat = true) (cmd : Word) :
    decodeRow opc cmd = .error .unassignedOpcode := by
  unfold decodeRow
  split
  case h_26 => rfl
  all_goals simp_all [unassignedOpcode]

/-! ## A word and its fields (R71 to R74) -/

theorem fieldAt_zero {k : Nat} (lo : Nat) : fieldAt (0 : BitVec k) lo = 0#32 := by
  simp [fieldAt]

/-- A field that the mask covers is the match's. -/
theorem extract_of_masked {cmd mask val : Word} {lo n : Nat} (h : cmd &&& mask = val)
    (hm : mask.extractLsb' lo n = BitVec.allOnes n) : cmd.extractLsb' lo n = val.extractLsb' lo n := by
  rw [← h, BitVec.extractLsb'_and, hm, BitVec.and_allOnes]

/-- A field of `n + m` bits is its upper field and its lower field. -/
theorem fieldAt_extract_add (cmd : Word) (lo m n : Nat) : fieldAt (cmd.extractLsb' lo (n + m)) lo =
    fieldAt (cmd.extractLsb' (lo + n) m) (lo + n) ||| fieldAt (cmd.extractLsb' lo n) lo := by
  ext k hk
  by_cases h1 : k < lo
  · simp [fieldAt, h1, show k < lo + n by omega]
  by_cases h2 : k < lo + n
  · simp [fieldAt, h1, h2, show k - lo < n + m by omega, show k - lo < n by omega]
  · simp [fieldAt, h1, h2, show ¬ k - lo < n by omega, show k - lo < n + m ↔ k - (lo + n) < m by omega,
      show lo + (k - lo) = lo + n + (k - (lo + n)) by omega]

/-- A word is its opcode and its low 24 bits. -/
theorem word_eq_fields (cmd : Word) : cmd = fieldAt (opcField cmd) 24 ||| fieldAt (cmd.extractLsb' 0 24) 0 := by
  have h := fieldAt_extract_add cmd 0 8 24
  simpa [fieldAt, opcField] using h

/-- An index word shifted to a field is that field. -/
theorem indexWord_shiftLeft (x : Fin 16) (lo : Nat) : indexWord x <<< lo = fieldAt (BitVec.ofNat 4 x.val) lo := by
  rw [indexWord, fieldAt, BitVec.setWidth_ofNat_of_le_of_lt (by decide) x.isLt]

/-- The index that stands in a field, as that field. -/
theorem indexWord_nibble_shiftLeft (cmd : Word) (lo : Nat) :
    indexWord (nibble cmd lo) <<< lo = fieldAt (cmd.extractLsb' lo 4) lo := by
  rw [indexWord_shiftLeft, nibble, BitVec.ofNat_toNat, BitVec.setWidth_eq]

/-! ## Encoding (R83) -/

theorem encode_eq (i : Instr) : encode i = fieldAt i.opcode 24 ||| operandBits i := rfl

/-- QR's operand bits as fields. -/
theorem operandBits_qr (a b c d : Fin 16) : operandBits (.qr a b c d) =
    fieldAt (BitVec.ofNat 4 a.val) 20 ||| fieldAt (BitVec.ofNat 4 b.val) 16 ||| fieldAt (BitVec.ofNat 4 c.val) 12 |||
      fieldAt (BitVec.ofNat 4 d.val) 8 := by
  simp only [operandBits, indexWord_shiftLeft]

/-- An index as the lowest field. -/
theorem indexWord_eq_field (x : Fin 16) : indexWord x = fieldAt (BitVec.ofNat 4 x.val) 0 := by
  rw [← indexWord_shiftLeft, BitVec.shiftLeft_zero]

/-- The opcode field of every encoding is the command's opcode (R72). -/
theorem opcField_encode (i : Instr) : opcField (encode i) = i.opcode := by
  cases i with
  | qr a b c d => exact Laws.OpcodeField.qr a b c d
  | rdr x => exact Laws.OpcodeField.rdr x
  | ww x => exact Laws.OpcodeField.ww x
  | wr x => exact Laws.OpcodeField.wr x
  | sr x => exact Laws.OpcodeField.sr x
  | ksr x => exact Laws.OpcodeField.ksr x
  | _ => exact Laws.OpcodeField.of_operandBits (by decide) (by decide)

/-! ## Decoding a word whose reserved bits are 0, format by format (R71, R79) -/

theorem decodeN_of_reserved {cmd : Word} {i : Instr} (h : cmd.extractLsb' 0 24 = 0) : decodeN cmd i = .ok i := if_pos h

theorem decodeI_of_reserved {cmd : Word} {f : Fin 16 → Instr} (h : cmd.extractLsb' 4 20 = 0) :
    decodeI cmd f = .ok (f (idxField cmd)) := if_pos h

theorem decodeQ_of_reserved {cmd : Word} {f : Fin 16 → Fin 16 → Fin 16 → Fin 16 → Instr}
    (h : cmd.extractLsb' 0 8 = 0) : decodeQ cmd f = .ok (f (aField cmd) (bField cmd) (cField cmd) (dField cmd)) := if_pos h

theorem decodeRdr_of_reserved {cmd : Word} (h : cmd.extractLsb' 4 20 = 0) (hx : (idxField cmd).val ≤ 4) :
    decodeRdr cmd = .ok (.rdr (idxField cmd)) := (if_pos h).trans (if_pos hx)

/-! ## Decoding an encoding, format by format -/

theorem decodeN_encode {i : Instr} (hb : operandBits i = 0) : decodeN (encode i) i = .ok i := by
  apply decodeN_of_reserved
  simp (disch := omega) [encode_eq, hb, extract_fieldAt_of_disjoint]

/-- The index of a format I encoding, and its reserved bits. -/
theorem fields_encode_of_index {i : Instr} {x : Fin 16} (hb : operandBits i = indexWord x) :
    idxField (encode i) = x ∧ (encode i).extractLsb' 4 20 = 0 := by
  have hx := x.isLt
  refine ⟨nibble_eq ?_, ?_⟩ <;>
    simp (disch := omega) [encode_eq, hb, indexWord_eq_field, extract_or, extract_fieldAt_same,
      extract_fieldAt_of_disjoint]

theorem decodeI_encode {f : Fin 16 → Instr} {x : Fin 16} (hb : operandBits (f x) = indexWord x) :
    decodeI (encode (f x)) f = .ok (f x) := by
  obtain ⟨hx, hz⟩ := fields_encode_of_index hb
  rw [decodeI_of_reserved hz, hx]

theorem decodeRdr_encode {x : Fin 16} (hx : x.val ≤ 4) : decodeRdr (encode (.rdr x)) = .ok (.rdr x) := by
  obtain ⟨hi, hz⟩ := fields_encode_of_index (i := .rdr x) rfl
  rw [decodeRdr_of_reserved hz (by rwa [hi]), hi]

theorem decodeQ_encode (a b c d : Fin 16) : decodeQ (encode (.qr a b c d)) .qr = .ok (.qr a b c d) := by
  have fields : aField (encode (.qr a b c d)) = a ∧ bField (encode (.qr a b c d)) = b ∧
      cField (encode (.qr a b c d)) = c ∧ dField (encode (.qr a b c d)) = d ∧
      (encode (.qr a b c d)).extractLsb' 0 8 = 0 := by
    refine ⟨nibble_eq ?_, nibble_eq ?_, nibble_eq ?_, nibble_eq ?_, ?_⟩ <;>
      simp (disch := omega) [encode_eq, operandBits_qr, extract_or, extract_fieldAt_same, extract_fieldAt_of_disjoint]
  obtain ⟨ha, hb, hc, hd, hz⟩ := fields
  rw [decodeQ_of_reserved hz, ha, hb, hc, hd]

/-! ## The word that was decoded, format by format -/

theorem decodeN_ok {cmd : Word} {i j : Instr} (h : decodeN cmd j = .ok i) (ho : j.opcode = opcField cmd)
    (hb : operandBits j = 0) : i = j ∧ encode j = cmd := by
  obtain ⟨hz, hd⟩ | ⟨-, hd⟩ := decodeN_cases cmd j <;> rw [hd] at h
  · refine ⟨(Except.ok.inj h).symm, ?_⟩
    conv_rhs => rw [word_eq_fields cmd, hz, ← ho, fieldAt_zero]
    rw [encode_eq, hb]
    rfl
  · nomatch h

/-- A word without reserved bits of format I is its opcode and its index. -/
theorem word_eq_of_index {cmd : Word} (hz : cmd.extractLsb' 4 20 = 0) :
    cmd = fieldAt (opcField cmd) 24 ||| indexWord (idxField cmd) := by
  have hi := indexWord_nibble_shiftLeft cmd 0
  rw [BitVec.shiftLeft_zero] at hi
  have h := word_eq_fields cmd
  rwa [fieldAt_extract_add cmd 0 20 4, hz, fieldAt_zero, BitVec.zero_or, ← hi] at h

theorem decodeI_ok {cmd : Word} {i : Instr} {f : Fin 16 → Instr} (h : decodeI cmd f = .ok i)
    (ho : ∀ x, (f x).opcode = opcField cmd) (hb : ∀ x, operandBits (f x) = indexWord x) :
    i = f (idxField cmd) ∧ encode (f (idxField cmd)) = cmd := by
  obtain ⟨hz, hd⟩ | ⟨-, hd⟩ := decodeI_cases cmd f <;> rw [hd] at h
  · refine ⟨(Except.ok.inj h).symm, ?_⟩
    conv_rhs => rw [word_eq_of_index hz]
    rw [encode_eq, ho, hb]
  · nomatch h

/-- RDR's row is a format I row whose index is at most 4 (R79). -/
theorem decodeRdr_ok {cmd : Word} {i : Instr} (h : decodeRdr cmd = .ok i) :
    (idxField cmd).val ≤ 4 ∧ decodeI cmd .rdr = .ok i := by
  obtain ⟨hz, hx, hd⟩ | ⟨-, -, hd⟩ | ⟨-, hd⟩ := decodeRdr_cases cmd <;> rw [hd] at h
  · exact ⟨hx, (decodeI_of_reserved hz).trans h⟩
  · nomatch h
  · nomatch h

/-- A word without reserved bits of format Q is its opcode and its four indices. -/
theorem word_eq_of_indices {cmd : Word} (hz : cmd.extractLsb' 0 8 = 0) : cmd = fieldAt (opcField cmd) 24 |||
    (indexWord (aField cmd) <<< 20 ||| indexWord (bField cmd) <<< 16 ||| indexWord (cField cmd) <<< 12 |||
      indexWord (dField cmd) <<< 8) := by
  have h := word_eq_fields cmd
  rw [fieldAt_extract_add cmd 0 16 8, hz, fieldAt_zero, BitVec.or_zero, fieldAt_extract_add cmd 8 12 4,
    fieldAt_extract_add cmd 12 8 4, fieldAt_extract_add cmd 16 4 4] at h
  simpa only [aField, bField, cField, dField, indexWord_nibble_shiftLeft, BitVec.or_assoc] using h

theorem decodeQ_ok {cmd : Word} {i : Instr} (h : decodeQ cmd .qr = .ok i) (ho : (0x21 : BitVec 8) = opcField cmd) :
    i.wellFormed = true ∧ encode i = cmd := by
  obtain ⟨hz, hd⟩ | ⟨-, hd⟩ := decodeQ_cases cmd .qr <;> rw [hd] at h
  · obtain rfl := (Except.ok.inj h).symm
    refine ⟨rfl, ?_⟩
    conv_rhs => rw [word_eq_of_indices hz, ← ho]
    rfl
  · nomatch h

/-! ## The words that match a row -/

/-- Every mask covers the opcode. -/
theorem Instr.mask_opcField (i : Instr) : i.mask.extractLsb' 24 8 = BitVec.allOnes 8 := by
  cases i <;> simp [Instr.mask]

/-- The opcode of a word that matches a command's row is the command's. -/
theorem opcField_of_match {cmd : Word} {i : Instr} (h : cmd &&& i.row.2 = i.row.1) : opcField cmd = i.opcode :=
  (extract_of_masked h i.mask_opcField).trans (extract_fieldAt_same i.opcode 24 (by decide))

/-- An encoding matches its command's row. -/
theorem encode_matches_row (i : Instr) : encode i &&& i.row.2 = i.row.1 := by
  have hidx : ∀ x : Fin 16, indexWord x &&& 0xFFFFFFF0#32 = 0#32 := by decide
  have hqr : ∀ x : Fin 16, indexWord x <<< 20 &&& 0xFF0000FF#32 = 0#32 ∧ indexWord x <<< 16 &&& 0xFF0000FF#32 = 0#32 ∧
    indexWord x <<< 12 &&& 0xFF0000FF#32 = 0#32 ∧ indexWord x <<< 8 &&& 0xFF0000FF#32 = 0#32 := by decide
  cases i with
  | rdr x | ww x | wr x | sr x | ksr x =>
    rw [encode_eq]
    simp [Instr.row, Instr.mask, Instr.opcode, operandBits, BitVec.and_or_distrib_right, hidx, fieldAt]
  | qr a b c d =>
    rw [encode_eq]
    simp [Instr.row, Instr.mask, Instr.opcode, operandBits, BitVec.and_or_distrib_right, hqr, fieldAt]
  | _ => decide

/-- A reserved field that a command's mask covers is 0 in the words that match. -/
theorem reserved_of_match {cmd : Word} {i : Instr} {lo n : Nat} (h : cmd &&& i.row.2 = i.row.1)
    (hm : i.mask.extractLsb' lo n = BitVec.allOnes n) (hn : lo + n ≤ 24) : cmd.extractLsb' lo n = 0 :=
  (extract_of_masked h hm).trans (extract_fieldAt_of_disjoint i.opcode (.inl hn))

/-- A word that matches a command's row decodes by that row's format, RDR's index being at most 4. -/
theorem decodes_of_match {cmd : Word} {i : Instr} (h : cmd &&& i.row.2 = i.row.1)
    (hidx : cmd &&& 0xFFFFFFF0 = 0x02000000 → (idxField cmd).val ≤ 4) : ∃ j, decode cmd = .ok j := by
  have hN : (0xFFFFFFFF#32).extractLsb' 0 24 = BitVec.allOnes 24 := by decide
  have hI : (0xFFFFFFF0#32).extractLsb' 4 20 = BitVec.allOnes 20 := by decide
  have hQ : (0xFF0000FF#32).extractLsb' 0 8 = BitVec.allOnes 8 := by decide
  rw [decode, opcField_of_match h]
  cases i with
  | rdr x =>
    have hz := reserved_of_match h hI (by decide)
    rw [Instr.row_rdr] at h
    exact ⟨_, decodeRdr_of_reserved hz (hidx h)⟩
  | qr a b c d => exact ⟨_, decodeQ_of_reserved (reserved_of_match h hQ (by decide))⟩
  | ww x | wr x | sr x | ksr x => exact ⟨_, decodeI_of_reserved (reserved_of_match h hI (by decide))⟩
  | _ => exact ⟨_, decodeN_of_reserved (reserved_of_match h hN (by decide))⟩

/-! ## Decoding and encoding are inverse, and decoding accepts the opcode map -/

/-- Settles O1: each format's decoder reads back the fields that the encoder wrote. -/
theorem decodeOfEncodeIsTheCommand : Obligations.DecodeOfEncodeIsTheCommand := by
  intro i hwf
  rw [decode, opcField_encode]
  cases i with
  | rdr x => exact decodeRdr_encode (of_decide_eq_true hwf)
  | qr a b c d => exact decodeQ_encode a b c d
  | ww x | wr x | sr x | ksr x => exact decodeI_encode rfl
  | _ => exact decodeN_encode rfl

/-- Settles O2: the opcode is some command's, and that command's format has no bit of the word left over. -/
theorem encodeOfDecodeIsTheWord : Obligations.EncodeOfDecodeIsTheWord := by
  intro cmd i h
  rw [decode] at h
  cases hu : unassignedOpcode (opcField cmd).toNat with
  | true => rw [decodeRow_of_unassigned hu] at h; nomatch h
  | false =>
    obtain ⟨j, hj⟩ := exists_opcode_eq hu
    rw [← hj] at h
    cases j with
    | rdr x =>
      obtain ⟨hx, h⟩ := decodeRdr_ok h
      obtain ⟨rfl, he⟩ := decodeI_ok h (fun _ => hj) (fun _ => rfl)
      exact ⟨decide_eq_true hx, he⟩
    | qr a b c d => exact decodeQ_ok h hj
    | ww x | wr x | sr x | ksr x =>
      obtain ⟨rfl, he⟩ := decodeI_ok h (fun _ => hj) (fun _ => rfl)
      exact ⟨rfl, he⟩
    | _ =>
      obtain ⟨rfl, he⟩ := decodeN_ok h hj rfl
      exact ⟨rfl, he⟩

/-- Settles O4: every mask covers the opcode, and no two rows have the same. -/
theorem opcodeRowsAreDisjoint : Obligations.OpcodeRowsAreDisjoint := by
  intro cmd r hr q hq hcr hcq
  have hnodup : (Instr.ofEachOpcode.map Instr.opcode).Nodup := by decide
  obtain ⟨i, hi, rfl⟩ := exists_row_eq hr
  obtain ⟨j, hj, rfl⟩ := exists_row_eq hq
  rw [List.inj_on_of_nodup_map hnodup hi hj ((opcField_of_match hcr).symm.trans (opcField_of_match hcq))]

/-- Settles O3: a word that decodes is an encoding, which matches its row; a word that matches a row decodes. -/
theorem decodeAcceptsExactlyTheOpcodeMap : Obligations.DecodeAcceptsExactlyTheOpcodeMap := by
  intro cmd
  constructor
  · rintro ⟨i, hi⟩
    obtain ⟨-, rfl⟩ := encodeOfDecodeIsTheWord cmd i hi
    refine ⟨⟨i.row, i.row_mem, encode_matches_row i⟩, fun hm => ?_⟩
    rw [decode, opcField_of_match (i := .rdr 0) (by rwa [Instr.row_rdr])] at hi
    exact (decodeRdr_ok hi).1
  · rintro ⟨⟨r, hr, hm⟩, hidx⟩
    obtain ⟨i, -, rfl⟩ := exists_row_eq hr
    exact decodes_of_match hm hidx

/-- Settles O5, word by word. -/
theorem specWordsDecode : Obligations.SpecWordsDecode := by
  unfold Obligations.SpecWordsDecode
  decide

/-! ## Steps with an issued word -/

/-- Settles O6: with the event that is next on its list, the state is the one that issues it. -/
theorem stepRunsTheDecodedCommand : Obligations.StepRunsTheDecodedCommand := by
  intro s cmd din rest i hs hd
  have hissuing : issuing s cmd din rest = s := by rw [issuing, ← hs]
  rw [← hissuing]
  exact step_issuing_ok hd

/-- Settles O7: an unassigned opcode decodes to no command. -/
theorem unassignedOpcodeIsIllegal : Obligations.UnassignedOpcodeIsIllegal := by
  intro s cmd din rest hu
  exact step_issuing_error (decodeRow_of_unassigned hu cmd)

/-- Settles O8: a word that decodes would match a row. -/
theorem unmatchedWordIsIllegal : Obligations.UnmatchedWordIsIllegal := by
  intro s cmd din rest hno
  cases hd : decode cmd with
  | error e => exact step_issuing_error hd
  | ok i =>
    obtain ⟨⟨r, hr, hm⟩, -⟩ := (decodeAcceptsExactlyTheOpcodeMap cmd).1 ⟨i, hd⟩
    exact absurd hm (hno r hr)

end Sys2Proof

/-! SUPPORT. The stepwise permutation, and the bits of DIN that a command does not read. -/

namespace Sys2Proof.Machine

/-- A command whose checks pass takes its effect. -/
theorem exec_of_pass {i : Instr} {s : State} (h : firstFault (checksOf i s) = none) :
    exec i s = .next (effectOf i s).succeed :=
  (exec_eq_command i s).trans (command_of_pass h)

/-- A command that has a fault to report raises it. -/
theorem exec_of_fault {i : Instr} {s : State} {c : ErrorCode} (h : firstFault (checksOf i s) = some c) :
    exec i s = .next (s.raise c) :=
  (exec_eq_command i s).trans (command_of_fault h)

end Sys2Proof.Machine

namespace Sys2Proof.Safety

open Sys2Proof.Machine

/-! ## INIT, ten DBLR and FFWD (R88) -/

/-- Outside a session `n` DBLR run `n` double rounds on W, and nothing else changes. -/
theorem execAll_dblr (n : Nat) {s : State} (hs : s.sess = false) :
    execAll (List.replicate n .dblr) s.succeed = some (s.mapW (doubleRoundsOf n)).succeed := by
  induction n generalizing s with
  | zero => rfl
  | succ n ih =>
    have hstep : exec .dblr s.succeed = .next (s.mapW doubleRound).succeed :=
      exec_of_pass (i := .dblr) (firstFault_busy hs)
    rw [List.replicate_succ, execAll_cons hstep, ih (s := s.mapW doubleRound) hs]
    rfl

/-- Settles O38: the ten DBLR and FFWD run on INIT's state what `Generate` runs on the initial state. -/
theorem stepwisePermutationEqualsBlock : Obligations.StepwisePermutationEqualsBlock := by
  intro s hs hk hn
  have hlen := firstFault_lengths hs hk hn
  have hffwd := exec_of_pass (i := .ffwd) (s := ((effectOf .init s).mapW (doubleRoundsOf 10)).succeed)
    (firstFault_busy hs)
  refine ⟨_, _, ?_, exec_of_pass (i := .block) hlen, rfl⟩
  rw [List.append_assoc, List.singleton_append, execAll_cons (exec_of_pass (i := .init) hlen), execAll_append,
    execAll_dblr 10 (s := effectOf .init s) hs, Option.bind_some, execAll_cons hffwd]
  rfl

/-! ## The bits of DIN that are not read (R75)

`s.accept d s.inputs` is `s` with another DIN. -/

theorem accept_of_eq {s : State} {d : Word} {rest : List HostInput} (hd : s.din = d) (hr : s.inputs = rest) :
    s.accept d rest = s := by
  rw [← hd, ← hr]
  rfl

/-- No check reads the host's side. -/
theorem checksOf_accept (i : Instr) (s : State) (d : Word) (rest : List HostInput) :
    checksOf i (s.accept d rest) = checksOf i s := by
  cases i <;> rfl

theorem keyAppend_accept (s : State) (d : Word) (rest : List HostInput) (b : Byte) :
    (s.accept d rest).keyAppend b = (s.keyAppend b).accept d rest := by
  by_cases h : s.klen.val < 32 <;> simp [State.keyAppend, State.accept, h]

theorem nonceAppend_accept (s : State) (d : Word) (rest : List HostInput) (b : Byte) :
    (s.accept d rest).nonceAppend b = (s.nonceAppend b).accept d rest := by
  by_cases h : s.nlen.val < 12 <;> simp [State.nonceAppend, State.accept, h]

theorem xorByte_accept (s : State) (d : Word) (rest : List HostInput) (p : Byte) :
    (s.accept d rest).xorByte p = (s.xorByte p).accept d rest := by
  obtain h | h := s.pos_cases
  · rw [State.xorByte_of_lt p h, State.xorByte_of_lt p (s := s.accept d rest) h]
    rfl
  · rw [State.xorByte_of_eq p h, State.xorByte_of_eq p (s := s.accept d rest) h]
    rfl

/-- Words that agree in bits 7..0 have the same lowest byte. -/
theorem byteOf_zero_of_and {d e : Word} (h : d &&& 0xFF = e &&& 0xFF) : byteOf d 0 = byteOf e 0 := by
  have hm : (0xFF#32).extractLsb' 0 8 = BitVec.allOnes 8 := by decide
  exact (extract_of_masked h hm).trans (extract_of_masked rfl hm).symm

/-- No effect reads a bit of DIN outside R76's column, and none writes DIN. -/
theorem effectOf_with_din {i : Instr} {s : State} {d : Word} (h : d &&& dinMask i = s.din &&& dinMask i) :
    effectOf i (s.accept d s.inputs) = (effectOf i s).accept d s.inputs := by
  have hfull (hm : dinMask i = BitVec.allOnes 32) :
      effectOf i (s.accept d s.inputs) = (effectOf i s).accept d s.inputs := by
    rw [hm, BitVec.and_allOnes, BitVec.and_allOnes] at h
    obtain ⟨hdin, hinputs, -⟩ := effectOf_frame i s
    rw [accept_of_eq h.symm rfl, accept_of_eq (hdin.trans h.symm) hinputs]
  have hbyte (hm : dinMask i = 0xFF) : byteOf d 0 = byteOf s.din 0 := byteOf_zero_of_and (hm ▸ h)
  cases i with
  | kb => exact (keyAppend_accept ..).trans (by rw [State.dinByte, State.accept_din, hbyte rfl]; rfl)
  | nb => exact (nonceAppend_accept ..).trans (by rw [State.dinByte, State.accept_din, hbyte rfl]; rfl)
  | xb => exact (xorByte_accept ..).trans (by rw [State.dinByte, State.accept_din, hbyte rfl]; rfl)
  | kw | nw | ctrw | ww x | xw => exact hfull rfl
  | _ => rfl

/-- Settles O52: neither a check nor an effect reads the other bits of DIN. -/
theorem unreadDinBitsAreIgnored : Obligations.UnreadDinBitsAreIgnored := by
  intro i s t d hd h
  show exec i (s.accept d s.inputs) = _
  have hchecks := checksOf_accept i s d s.inputs
  obtain ⟨c, hc, rfl⟩ | ⟨hc, rfl⟩ := exec_cases h
  · exact exec_of_fault (hchecks ▸ hc)
  · obtain ⟨-, hinputs, -⟩ := effectOf_frame i s
    rw [exec_of_pass (hchecks ▸ hc), effectOf_with_din hd, ← hinputs]
    rfl

end Sys2Proof.Safety

/-! SUPPORT. Word loads: what KW and NW store, runs that issue one command for each word of a list, and LOAD. -/

namespace Sys2Proof.Machine

open Sys2Proof.Safety

/-! ## Four appends in a row (R103, R107) -/

/-- The byte at `j` after four appends that begin at length `len` and count up to `top`: the lengths before the four are
those of R100 and R104. -/
theorem ite_four_appends {len top j : Nat} (hj : j + 1 < top) (b : Nat → Byte) (x : Byte) :
    (if j = min (min (min (len + 1) top + 1) top + 1) top then b 3
      else if j = min (min (len + 1) top + 1) top then b 2
      else if j = min (len + 1) top then b 1
      else if j = len then b 0 else x) =
    if len ≤ j ∧ j < len + 4 then b (j - len) else x := by
  by_cases h : len ≤ j ∧ j < len + 4
  · obtain ⟨d, rfl⟩ := Nat.exists_eq_add_of_le h.1
    have hd : d < 4 := by omega
    rw [if_pos h, Nat.add_sub_cancel_left]
    interval_cases d
    · rw [if_neg (by omega), if_neg (by omega), if_neg (by omega), if_pos (by omega)]
    · rw [if_neg (by omega), if_neg (by omega), if_pos (by omega)]
    · rw [if_neg (by omega), if_pos (by omega)]
    · rw [if_pos (by omega)]
  · rw [if_neg h, if_neg (by omega), if_neg (by omega), if_neg (by omega), if_neg (by omega)]

/-- KW counts four bytes, up to 33. -/
theorem effectOf_kw_klen (s : State) : (effectOf .kw s).klen.val = min (s.klen.val + 4) 33 := by
  simp only [effectOf, State.keyAppend_klen]
  omega

/-- KW stores the bytes of DIN from KLEN on, as far as byte 31. -/
theorem effectOf_kw_key (s : State) (j : Fin 32) : (effectOf .kw s).key[j] =
    if s.klen.val ≤ j.val ∧ j.val < s.klen.val + 4 then byteOf s.din (j.val - s.klen.val) else s.key[j] := by
  simp only [effectOf, State.keyAppend_key, State.keyAppend_klen]
  exact ite_four_appends (by omega) (byteOf s.din) s.key[j]

/-- KW touches KEY and KLEN alone. -/
theorem effectOf_kw_frame (s : State) :
    effectOf .kw s = { s with key := (effectOf .kw s).key, klen := (effectOf .kw s).klen } := by
  simp only [effectOf]
  rw [State.keyAppend_frame]
  simp

/-- Everything KW does outside a session (R103): four bytes stored from KLEN on as far as byte 31, and the count. -/
theorem exec_kw_stores {s : State} (hs : s.sess = false) : ∃ t, exec .kw s = .next t ∧
    t.klen.val = min (s.klen.val + 4) 33 ∧
    (∀ j : Fin 32, t.key[j] =
      if s.klen.val ≤ j.val ∧ j.val < s.klen.val + 4 then byteOf s.din (j.val - s.klen.val) else s.key[j]) ∧
    t = { s with key := t.key, klen := t.klen, err := 0 } := by
  have hexec := exec_of_pass (i := .kw) (firstFault_busy hs)
  have hframe := effectOf_kw_frame s
  have hklen := effectOf_kw_klen s
  have hkey := effectOf_kw_key s
  generalize effectOf .kw s = u at *
  exact ⟨u.succeed, hexec, hklen, hkey, congrArg State.succeed hframe⟩

/-- NW counts four bytes, up to 13. -/
theorem effectOf_nw_nlen (s : State) : (effectOf .nw s).nlen.val = min (s.nlen.val + 4) 13 := by
  simp only [effectOf, State.nonceAppend_nlen]
  omega

/-- NW touches NONCE and NLEN alone. -/
theorem effectOf_nw_frame (s : State) :
    effectOf .nw s = { s with nonce := (effectOf .nw s).nonce, nlen := (effectOf .nw s).nlen } := by
  simp only [effectOf]
  rw [State.nonceAppend_frame]
  simp

/-- NW stores the bytes of DIN from NLEN on, as far as byte 11. -/
theorem effectOf_nw_nonce (s : State) (j : Fin 12) : (effectOf .nw s).nonce[j] =
    if s.nlen.val ≤ j.val ∧ j.val < s.nlen.val + 4 then byteOf s.din (j.val - s.nlen.val) else s.nonce[j] := by
  simp only [effectOf, State.nonceAppend_nonce, State.nonceAppend_nlen]
  exact ite_four_appends (by omega) (byteOf s.din) s.nonce[j]

/-- Everything NW does outside a session (R107): four bytes stored from NLEN on as far as byte 11, and the count. -/
theorem exec_nw_stores {s : State} (hs : s.sess = false) : ∃ t, exec .nw s = .next t ∧
    t.nlen.val = min (s.nlen.val + 4) 13 ∧
    (∀ j : Fin 12, t.nonce[j] =
      if s.nlen.val ≤ j.val ∧ j.val < s.nlen.val + 4 then byteOf s.din (j.val - s.nlen.val) else s.nonce[j]) ∧
    t = { s with nonce := t.nonce, nlen := t.nlen, err := 0 } := by
  have hexec := exec_of_pass (i := .nw) (firstFault_busy hs)
  have hframe := effectOf_nw_frame s
  have hnlen := effectOf_nw_nlen s
  have hnonce := effectOf_nw_nonce s
  generalize effectOf .nw s = u at *
  exact ⟨u.succeed, hexec, hnlen, hnonce, congrArg State.succeed hframe⟩

end Sys2Proof.Machine

namespace Sys2Proof.Safety

open Sys2Proof.Machine

/-! ## Runs of the core -/

/-- A run takes its first step. -/
theorem run_succ_of_step {s t : State} (h : step s = .next t) (k : Nat) :
    Host.Core.run core (k + 1) s = Host.Core.run core k t := by
  have h : core.step s = .next t := h
  simp only [Host.Core.run, h]

/-- One command issued for each word of a list, each step keeping a predicate of the words so far. -/
theorem run_words {cmd : Word} {i : Instr} {P : List Word → State → Prop} (hd : decode cmd = .ok i)
    (hstep : ∀ {ws : List Word} {s : State}, P ws s → ∀ w rest,
      ∃ t, exec i (presented s w rest) = .next t ∧ P (ws ++ [w]) t)
    (ws : List Word) {done : List Word} {s : State} {rest : List HostInput} (hP : P done s)
    (hin : s.inputs = ws.map (.command cmd) ++ rest) (k : Nat) :
    ∃ t, Host.Core.run core (ws.length + k) s = Host.Core.run core k t ∧ t.inputs = rest ∧ P (done ++ ws) t := by
  induction ws generalizing done s with
  | nil => exact ⟨s, by simp, hin, by simpa using hP⟩
  | cons w ws ih =>
    obtain ⟨t, ht, hPt⟩ := hstep hP w (ws.map (.command cmd) ++ rest)
    obtain ⟨u, hu, hrest, hPu⟩ := ih hPt (exec_keeps_host_side ht).2
    have hrun := run_succ_of_step ((stepRunsTheDecodedCommand s cmd w _ i hin hd).trans ht) (ws.length + k)
    refine ⟨u, ?_, hrest, by simpa using hPu⟩
    rw [← hu, ← hrun, List.length_cons, Nat.add_right_comm]

/-! ## Words in a byte buffer (R22) -/

/-- The buffer begins with the bytes of the words, little-endian, as far as it reaches. -/
def HoldsWords {n : Nat} (v : Vector Byte n) (ws : List Word) : Prop :=
  ∀ (j : Nat) (hj : j < ws.length) (k : Fin 4) (h : 4 * j + k.val < n), v[4 * j + k.val] = byteOf ws[j] k.val

theorem holdsWords_nil {n : Nat} (v : Vector Byte n) : HoldsWords v [] := fun j hj => absurd hj (Nat.not_lt_zero j)

/-- Storing the bytes of one more word behind the words that are held. -/
theorem HoldsWords.store {n len : Nat} {v v' : Vector Byte n} {ws : List Word} {w : Word} (h : HoldsWords v ws)
    (hlen : len = min (4 * ws.length) (n + 1))
    (hv : ∀ j : Fin n, v'[j] = if len ≤ j.val ∧ j.val < len + 4 then byteOf w (j.val - len) else v[j]) :
    HoldsWords v' (ws ++ [w]) := by
  intro j hj k hk
  rw [List.length_append, List.length_singleton] at hj
  have hstored := hv ⟨4 * j + k.val, hk⟩
  by_cases hold : j < ws.length
  · rw [if_neg (by dsimp only; omega)] at hstored
    rw [List.getElem_append_left hold]
    exact hstored.trans (h j hold k hk)
  · obtain rfl : j = ws.length := by omega
    rw [if_pos (by dsimp only; omega)] at hstored
    rw [List.getElem_concat_length rfl]
    exact hstored.trans (by congr 1; dsimp only; omega)

/-! ## LOAD (R86, R214) -/

/-- After KCLR and a KW for each of `ws`, from `s₀` on: the key holds their bytes, and all else is as in `s₀`. -/
structure KeyLoaded (s₀ : State) (ws : List Word) (s : State) : Prop where
  klen : s.klen.val = min (4 * ws.length) 33
  key : HoldsWords s.key ws
  frame : s = { s₀ with key := s.key, klen := s.klen, err := 0, din := s.din, inputs := s.inputs }

/-- After NCLR and an NW for each of `ws`, from `s₀` on: the nonce holds their bytes, and all else is as in `s₀`. -/
structure NonceLoaded (s₀ : State) (ws : List Word) (s : State) : Prop where
  nlen : s.nlen.val = min (4 * ws.length) 13
  nonce : HoldsWords s.nonce ws
  frame : s = { s₀ with nonce := s.nonce, nlen := s.nlen, err := 0, din := s.din, inputs := s.inputs }

/-- KW loads one more word of the key. -/
theorem KeyLoaded.kw {s₀ s : State} {ws : List Word} (h : KeyLoaded s₀ ws s) (hs : s₀.sess = false) (w : Word)
    (rest : List HostInput) : ∃ t, exec .kw (presented s w rest) = .next t ∧ KeyLoaded s₀ (ws ++ [w]) t := by
  obtain ⟨hklen, hkey, hframe⟩ := h
  have hsess : s.sess = false := by rw [hframe]; exact hs
  obtain ⟨t, ht, htlen, htkey, htframe⟩ := exec_kw_stores (s := presented s w rest) hsess
  refine ⟨t, ht, ?_, hkey.store hklen htkey, ?_⟩
  · rw [htlen, List.length_append, List.length_singleton]
    show min (s.klen.val + 4) 33 = _
    omega
  · rw [htframe, presented, hframe]

/-- NW loads one more word of the nonce. -/
theorem NonceLoaded.nw {s₀ s : State} {ws : List Word} (h : NonceLoaded s₀ ws s) (hs : s₀.sess = false) (w : Word)
    (rest : List HostInput) : ∃ t, exec .nw (presented s w rest) = .next t ∧ NonceLoaded s₀ (ws ++ [w]) t := by
  obtain ⟨hnlen, hnonce, hframe⟩ := h
  have hsess : s.sess = false := by rw [hframe]; exact hs
  obtain ⟨t, ht, htlen, htnonce, htframe⟩ := exec_nw_stores (s := presented s w rest) hsess
  refine ⟨t, ht, ?_, hnonce.store hnlen htnonce, ?_⟩
  · rw [htlen, List.length_append, List.length_singleton]
    show min (s.nlen.val + 4) 13 = _
    omega
  · rw [htframe, presented, hframe]

/-- The state after KCLR and NCLR, in which no word is loaded. -/
def cleared (s : State) (rest : List HostInput) : State :=
  { s with
    key := Vector.replicate 32 0, klen := 0, nonce := Vector.replicate 12 0, nlen := 0, err := 0, din := 0, inputs := rest }

/-- A step that issues a command whose checks pass. -/
theorem step_of_pass {s : State} {cmd din : Word} {i : Instr} {rest : List HostInput} (hd : decode cmd = .ok i)
    (hs : s.inputs = .command cmd din :: rest) (hc : firstFault (checksOf i (presented s din rest)) = none) :
    step s = .next (effectOf i (presented s din rest)).succeed :=
  (stepRunsTheDecodedCommand s cmd din rest i hs hd).trans (exec_of_pass hc)

/-- KCLR and NCLR take two steps. -/
theorem run_clears {s : State} (hs : s.sess = false) (rest : List HostInput) (k : Nat) :
    Host.Core.run core (k + 2) { s with inputs := .command 0x10000000 0 :: .command 0x13000000 0 :: rest } =
      Host.Core.run core k (cleared s rest) := by
  obtain ⟨t, ht⟩ : ∃ t : State, t = { s with
    key := Vector.replicate 32 0, klen := 0, err := 0, din := 0, inputs := .command 0x13000000 0 :: rest } := ⟨_, rfl⟩
  have hkclr : step (issuing s 0x10000000 0 (.command 0x13000000 0 :: rest)) = .next t :=
    ht ▸ step_of_pass (s := issuing s 0x10000000 0 _) (i := .kclr) (by decide) rfl (firstFault_busy hs)
  have hnclr : step t = .next (cleared s rest) :=
    ht ▸ step_of_pass (i := .nclr) (by decide) rfl (firstFault_busy hs)
  exact (run_succ_of_step hkclr (k + 1)).trans (run_succ_of_step hnclr k)

theorem keyLoaded_cleared (s : State) (rest : List HostInput) : KeyLoaded (cleared s rest) [] (cleared s rest) :=
  ⟨rfl, holdsWords_nil _, rfl⟩

theorem nonceLoaded_nil {s : State} (hn : s.nlen = 0) (he : s.err = 0) : NonceLoaded s [] s :=
  ⟨by rw [hn]; rfl, holdsWords_nil _, by rw [← he]⟩

/-- LOAD's events, one after another. -/
theorem loadInputs_append (kw : Vector Word 8) (nw : Vector Word 3) (ctr : Word) (rest : List HostInput) :
    loadInputs kw nw ctr ++ rest = .command 0x10000000 0 :: .command 0x13000000 0 ::
      (kw.toList.map (.command 0x12000000) ++ (nw.toList.map (.command 0x15000000) ++
        (.command 0x16000000 ctr :: rest))) := by
  simp [loadInputs]

/-- The bytes of a vector of words that a buffer holds. -/
theorem HoldsWords.byte {n m : Nat} {v : Vector Byte n} {ws : Vector Word m} (h : HoldsWords v ws.toList) (j : Fin m)
    (k : Fin 4) (hk : 4 * j.val + k.val < n) : v[4 * j.val + k.val] = byteOf ws[j] k.val :=
  (h j.val (by simp) k hk).trans (by simp)

/-- Settles O58: KCLR and NCLR leave no word loaded, each KW and NW loads one more, and CTRW writes the counter. -/
theorem loadFillsKeyNonceAndCounter : Obligations.LoadFillsKeyNonceAndCounter := by
  intro s kw nw ctr rest hs
  rw [loadInputs_append]
  generalize htail : kw.toList.map _ ++ _ = tail
  obtain ⟨t, hrunKey, hinKey, hklen, hkey, hframeKey⟩ :=
    run_words (i := .kw) (by decide) (fun h => h.kw hs) kw.toList (keyLoaded_cleared s tail) htail.symm 4
  have hloaded : NonceLoaded t [] t := nonceLoaded_nil (by rw [hframeKey]; rfl) (by rw [hframeKey])
  have ht : t.sess = false := by rw [hframeKey]; exact hs
  obtain ⟨u, hrunNonce, hinNonce, hnlen, hnonce, hframeNonce⟩ :=
    run_words (i := .nw) (by decide) (fun h => h.nw ht) nw.toList hloaded hinKey 1
  have hu : u.sess = false := by rw [hframeNonce]; exact ht
  have hctrw : step u = .next { u with counter := ctr, err := 0, din := ctr, inputs := rest } :=
    step_of_pass (i := .ctrw) (by decide) hinNonce (firstFault_busy hu)
  have hukey : u.key = t.key := by rw [hframeNonce]
  have hklen : t.klen = 32 := Fin.ext (by simpa using hklen)
  have hnlen : u.nlen = 12 := Fin.ext (by simpa using hnlen)
  have hrun : Host.Core.run core 14 { s with inputs := .command 0x10000000 0 :: .command 0x13000000 0 :: tail } =
      .next { u with counter := ctr, err := 0, din := ctr, inputs := rest } := by
    rw [Vector.length_toList] at hrunKey hrunNonce
    exact (run_clears hs tail 12).trans (hrunKey.trans (hrunNonce.trans (run_succ_of_step hctrw 0)))
  rw [← hukey] at hkey
  refine ⟨_, hrun, fun j k => hkey.byte j k (by omega), fun j k => hnonce.byte j k (by omega), ?_⟩
  rw [hframeNonce, hframeKey, hklen, hnlen]
  rfl

end Sys2Proof.Safety

/-! SUPPORT. The control commands (40_control.md): their words, what RDR puts on DOUT, and FAULTED across a command. -/

namespace Sys2Proof.Machine

open Sys2Proof.Safety

variable {s t : State}

/-! ## FAULTED -/

/-- A fault sets FAULTED and no effect but RST's touches it (R182, R184, R185). -/
theorem exec_keeps_faulted {i : Instr} (h : exec i s = .next t) (hi : i ≠ .rst) (hf : s.faulted = true) :
    t.faulted = true := by
  obtain ⟨c, -, rfl⟩ | ⟨-, rfl⟩ := exec_cases h
  · rfl
  · obtain ⟨-, -, hkeep⟩ := effectOf_frame i s
    exact (hkeep hi).trans hf

/-! ## RDR (R92, R37) -/

/-- The words of RDR's opcode: the reserved bits and the index decide (R78, R79). -/
theorem step_issuing_rdr {cmd din : Word} {rest : List HostInput} {idx : Fin 16} (ho : cmd.extractLsb' 24 8 = 0x02)
    (hx : (cmd.extractLsb' 0 4).toNat = idx.val) :
    step (issuing s cmd din rest) =
      if cmd.extractLsb' 4 20 = 0 ∧ idx.val ≤ 4 then exec (.rdr idx) (presented s din rest)
      else .next (faultState (presented s din rest) 3) := by
  have hrow : decode cmd = decodeRdr cmd := decode_of_opcode ho
  have hidx : idxField cmd = idx := nibble_eq hx
  obtain ⟨hz, hle, hd⟩ | ⟨-, hgt, hd⟩ | ⟨hz, hd⟩ := decodeRdr_cases cmd <;> rw [← hrow] at hd
  · rw [hidx] at hle hd
    rw [if_pos ⟨hz, hle⟩]
    exact step_issuing_ok hd
  · rw [hidx] at hgt
    rw [if_neg fun h => Nat.not_le_of_lt hgt h.2]
    exact step_issuing_error hd
  · rw [if_neg fun h => hz h.1]
    exact step_issuing_error hd

/-- An index of the map puts its register on DOUT. -/
theorem exec_rdr_of_le {idx : Fin 16} (h : idx.val ≤ 4) :
    exec (.rdr idx) s = .next { s with dout := s.controlRegister idx, err := 0 } :=
  exec_of_pass (i := .rdr idx) (by simp [checksOf, Nat.not_lt_of_le h])

/-- A reserved index is IllegalCommand. -/
theorem exec_rdr_of_gt {idx : Fin 16} (h : 4 < idx.val) : exec (.rdr idx) s = .next (faultState s 3) :=
  exec_of_fault (i := .rdr idx) (c := .illegalCommand) (by simp [checksOf, h])

/-- Index 3 shows the low word of BLKS. -/
theorem State.controlRegister_three (s : State) : s.controlRegister 3 = s.blks.setWidth 32 :=
  (BitVec.setWidth_eq_extractLsb' (by decide)).symm

/-- Index 4 shows how often 2^32 goes into BLKS. -/
theorem State.controlRegister_four (s : State) : s.controlRegister 4 = BitVec.ofNat 32 (s.blks.toNat / 2 ^ 32) := by
  have hbit : s.controlRegister 4 = (s.blks.extractLsb' 32 1).setWidth 32 := rfl
  apply BitVec.eq_of_toNat_eq
  rw [hbit, BitVec.toNat_setWidth, BitVec.extractLsb'_toNat, BitVec.toNat_ofNat, Nat.shiftRight_eq_div_pow]
  omega

/-- With BLKS in its range (R30), `BLKS[32]` is 1 only at 2^32. -/
theorem ofNat_blks_div_eq_one_iff {b : BitVec 33} (hb : b.toNat ≤ 2 ^ 32) :
    BitVec.ofNat 32 (b.toNat / 2 ^ 32) = 1 ↔ b.toNat = 2 ^ 32 := by
  have hone : (1 : BitVec 32).toNat = 1 := rfl
  rw [← BitVec.toNat_inj, BitVec.toNat_ofNat, hone]
  omega

end Sys2Proof.Machine

namespace Sys2Proof.Safety

open Sys2Proof.Machine

/-- Settles O15: the word's three cases, the five registers of the map, and the reserved indices. -/
theorem rdrRule : Obligations.RdrRule := by
  have blks_high (s : State) :
      exec (.rdr 4) s = .next { s with dout := BitVec.ofNat 32 (s.blks.toNat / 2 ^ 32), err := 0 } := by
    rw [exec_rdr_of_le (by decide), State.controlRegister_four]
  refine ⟨fun s cmd din rest idx ho hx => step_issuing_rdr ho hx, fun s => ⟨?_, ?_, ?_, ?_, blks_high s, ?_, ?_⟩⟩
  · exact exec_rdr_of_le (by decide)
  · exact exec_rdr_of_le (by decide)
  · exact exec_rdr_of_le (by decide)
  · rw [exec_rdr_of_le (by decide), State.controlRegister_three]
  · intro hb t ht
    obtain rfl := Host.Outcome.next.inj ((blks_high s).symm.trans ht)
    exact ofNat_blks_div_eq_one_iff hb
  · exact fun idx hgt => exec_rdr_of_gt hgt

/-- Settles O13: its row is format N, and it has no check and no effect. -/
theorem nopRule : Obligations.NopRule :=
  ⟨wordN_of_row fun _ => rfl, fun _ => exec_of_pass rfl⟩

/-- Settles O14: RST and RESET both end in `resetRegisters`, and every other command keeps FAULTED. -/
theorem rstRule : Obligations.RstRule := by
  refine ⟨wordN_of_row fun _ => rfl, fun s => ?_, fun i s t h hs ht => ?_⟩
  · exact ⟨s.resetRegisters, rfl, registersReset_resetRegisters s, rfl⟩
  · by_contra hi
    exact absurd (exec_keeps_faulted h hi hs) (by simp [ht])

end Sys2Proof.Safety

/-! SUPPORT. The load commands (41_load.md): what each stores, and a word load as four byte loads. -/

namespace Sys2Proof.Machine

open Sys2Proof.Safety

variable {s : State}

/-! ## Byte loads and the updates around them (R100, R104) -/

theorem keyAppend_succeed (s : State) (b : Byte) : s.succeed.keyAppend b = (s.keyAppend b).succeed := by
  by_cases h : s.klen.val < 32 <;> simp [State.keyAppend, State.succeed, h]

theorem nonceAppend_succeed (s : State) (b : Byte) : s.succeed.nonceAppend b = (s.nonceAppend b).succeed := by
  by_cases h : s.nlen.val < 12 <;> simp [State.nonceAppend, State.succeed, h]

/-- `i` checks Busy alone and appends `DIN[7:0]` by `append`, which reads and writes neither the host's side nor ERR and
keeps SESS. -/
structure AppendsByte (i : Instr) (append : State → Byte → State) : Prop where
  checks : ∀ s, checksOf i s = [s.busyCheck]
  effect : ∀ s, effectOf i s = append s (s.dinByte 0)
  accept : ∀ s d rest b, append (s.accept d rest) b = (append s b).accept d rest
  succeed : ∀ s b, append s.succeed b = (append s b).succeed
  sess : ∀ s b, (append s b).sess = s.sess

theorem appendsByte_kb : AppendsByte .kb State.keyAppend :=
  ⟨fun _ => rfl, fun _ => rfl, keyAppend_accept, keyAppend_succeed, State.keyAppend_sess⟩

theorem appendsByte_nb : AppendsByte .nb State.nonceAppend :=
  ⟨fun _ => rfl, fun _ => rfl, nonceAppend_accept, nonceAppend_succeed, State.nonceAppend_sess⟩

/-! ## Byte loads in a row -/

/-- The first command of a feed. -/
theorem feed_cons {i : Instr} {d : Word} {t : State} (h : exec i (s.accept d s.inputs) = .next t) (ds : List Word) :
    feed i (d :: ds) s = feed i ds t := by
  have h : exec i { s with din := d } = .next t := h
  simp only [feed, h]

section

variable {i : Instr} {append : State → Byte → State} (h : AppendsByte i append)
include h

/-- One byte load outside a session. -/
theorem AppendsByte.exec_append (hs : s.sess = false) (d : Word) (rest : List HostInput) :
    exec i (s.accept d rest) = .next ((append s (byteOf d 0)).accept d rest).succeed := by
  have hpass : firstFault (checksOf i (s.accept d rest)) = none := h.checks _ ▸ firstFault_busy hs
  rw [exec_of_pass hpass, h.effect, h.accept]
  rfl

/-- A byte load for each word, behind a command that succeeded with DIN `d`: the bytes are appended in order, and beside
them only DIN changes. -/
theorem AppendsByte.feed_of_succeed (ds : List Word) (hs : s.sess = false) (d : Word) (rest : List HostInput) :
    ∃ d', feed i ds (s.accept d rest).succeed =
      some (((ds.map (byteOf · 0)).foldl append s).accept d' rest).succeed := by
  induction ds generalizing s d with
  | nil => exact ⟨d, rfl⟩
  | cons e ds ih =>
    have hexec := h.exec_append (s := s.succeed) hs e rest
    rw [h.succeed] at hexec
    obtain ⟨d', hfeed⟩ := ih (s := append s (byteOf e 0)) ((h.sess s _).trans hs) e
    exact ⟨d', (feed_cons hexec ds).trans hfeed⟩

/-- A byte load for each word of a list that is not empty, from any state outside a session. -/
theorem AppendsByte.feed_append (d : Word) (ds : List Word) (hs : s.sess = false) :
    ∃ d', feed i (d :: ds) s =
      some ((((d :: ds).map (byteOf · 0)).foldl append s).accept d' s.inputs).succeed := by
  obtain ⟨d', hfeed⟩ := h.feed_of_succeed ds ((h.sess s (byteOf d 0)).trans hs) d s.inputs
  exact ⟨d', (feed_cons (h.exec_append hs d s.inputs) ds).trans hfeed⟩

end

/-! ## The bytes of DIN as words (R51) -/

/-- The four bytes of a word in order, each as the word that KB or NB takes it from. -/
def bytesAsWords (x : Word) : List Word := [x &&& 0xFF, (x >>> 8) &&& 0xFF, (x >>> 16) &&& 0xFF, x >>> 24]

theorem map_byteOf_bytesAsWords (x : Word) :
    (bytesAsWords x).map (byteOf · 0) = [byteOf x 0, byteOf x 1, byteOf x 2, byteOf x 3] := by
  have hmask (y : Word) : byteOf (y &&& 0xFF) 0 = byteOf y 0 :=
    byteOf_zero_of_and (by rw [BitVec.and_assoc, BitVec.and_self])
  have hshift (k : Nat) : byteOf (x >>> (8 * k)) 0 = byteOf x k := by
    ext n hn
    simp [byteOf]
  simp only [bytesAsWords, List.map_cons, List.map_nil, hmask]
  rw [hshift 1, hshift 2, hshift 3]

/-- A command that appends the four bytes of DIN is four byte loads of them, with DIN as it was. -/
theorem AppendsByte.word_load {i j : Instr} {append : State → Byte → State} (h : AppendsByte i append)
    (hs : s.sess = false) (hchecks : checksOf j s = [s.busyCheck])
    (heffect : effectOf j s = [s.dinByte 0, s.dinByte 1, s.dinByte 2, s.dinByte 3].foldl append s) :
    ∃ t, feed i (bytesAsWords s.din) s = some t ∧ exec j s = .next { t with din := s.din } := by
  obtain ⟨d', hfeed⟩ : ∃ d', feed i (bytesAsWords s.din) s =
      some ((((bytesAsWords s.din).map (byteOf · 0)).foldl append s).accept d' s.inputs).succeed :=
    h.feed_append _ _ hs
  rw [map_byteOf_bytesAsWords] at hfeed
  obtain ⟨hdin, hinputs, -⟩ := effectOf_frame j s
  have hexec : exec j s = .next (effectOf j s).succeed := exec_of_pass (hchecks ▸ firstFault_busy hs)
  rw [← accept_of_eq hdin hinputs, heffect] at hexec
  exact ⟨_, hfeed, hexec⟩

end Sys2Proof.Machine

namespace Sys2Proof.Safety

open Sys2Proof.Machine

/-- Settles O44: KW and NW append the bytes that the four byte loads append. -/
theorem wordLoadsAreFourByteLoads : Obligations.WordLoadsAreFourByteLoads := fun _ hs =>
  ⟨appendsByte_kb.word_load hs (j := .kw) rfl rfl, appendsByte_nb.word_load hs (j := .nw) rfl rfl⟩

/-- Settles O17: below 32 bytes `KeyAppend` stores and counts, from 32 on it stores nothing. -/
theorem kbRule : Obligations.KbRule := by
  refine ⟨wordN_of_row fun _ => rfl, busyInSession_of_checks exec_kb, fun s hs => ?_⟩
  have hexec : exec .kb s = .next (s.keyAppend (s.dinByte 0)).succeed := exec_of_pass (i := .kb) (firstFault_busy hs)
  refine ⟨fun hlt => ⟨_, hexec, ?_, s.keyAppend_key _, congrArg State.succeed (s.keyAppend_frame _)⟩,
    fun hge => ?_⟩
  · rw [State.succeed_klen, State.keyAppend_klen]
    omega
  · rw [hexec, State.keyAppend_of_ge _ hge]
    rfl

/-- Settles O18: the four appends are `exec_kw_stores`. -/
theorem kwRule : Obligations.KwRule :=
  ⟨wordN_of_row fun _ => rfl, busyInSession_of_checks exec_kw, fun _ hs => exec_kw_stores hs⟩

/-- Settles O20: below 12 bytes `NonceAppend` stores and counts, from 12 on it stores nothing. -/
theorem nbRule : Obligations.NbRule := by
  refine ⟨wordN_of_row fun _ => rfl, busyInSession_of_checks exec_nb, fun s hs => ?_⟩
  have hexec : exec .nb s = .next (s.nonceAppend (s.dinByte 0)).succeed := exec_of_pass (i := .nb) (firstFault_busy hs)
  refine ⟨fun hlt => ⟨_, hexec, ?_, s.nonceAppend_nonce _, congrArg State.succeed (s.nonceAppend_frame _)⟩,
    fun hge => ?_⟩
  · rw [State.succeed_nlen, State.nonceAppend_nlen]
    omega
  · rw [hexec, State.nonceAppend_of_ge _ hge]
    rfl

/-- Settles O21: the four appends are `exec_nw_stores`. -/
theorem nwRule : Obligations.NwRule :=
  ⟨wordN_of_row fun _ => rfl, busyInSession_of_checks exec_nw, fun _ hs => exec_nw_stores hs⟩

/-- Settles O16: its row is format N, its one check is Busy, and its effect writes KEY and KLEN. -/
theorem kclrRule : Obligations.KclrRule :=
  ⟨wordN_of_row fun _ => rfl, busyInSession_of_checks exec_kclr,
    fun _ hs => exec_of_pass (i := .kclr) (firstFault_busy hs)⟩

/-- Settles O19: its row is format N, its one check is Busy, and its effect writes NONCE and NLEN. -/
theorem nclrRule : Obligations.NclrRule :=
  ⟨wordN_of_row fun _ => rfl, busyInSession_of_checks exec_nclr,
    fun _ hs => exec_of_pass (i := .nclr) (firstFault_busy hs)⟩

/-- Settles O22: its row is format N, its one check is Busy, and its effect writes COUNTER. -/
theorem ctrwRule : Obligations.CtrwRule :=
  ⟨wordN_of_row fun _ => rfl, busyInSession_of_checks exec_ctrw,
    fun _ hs => exec_of_pass (i := .ctrw) (firstFault_busy hs)⟩

end Sys2Proof.Safety

/-! SUPPORT. The permutation commands (42_permutation.md): the checks of QR, the words that a quarter-round reads and
writes, and sequences of commands that change W alone. -/

namespace Sys2Proof.Machine

open Sys2Proof.Safety

variable {s : State} {a b c d a' b' c' d' : Fin 16}

/-! ## The checks of QR (R123) -/

theorem pairwiseDistinct_eq_true_iff_nodup : pairwiseDistinct a b c d = true ↔ [a, b, c, d].Nodup := by
  simp [pairwiseDistinct, and_assoc]

/-- Distinct indices outside a session: one quarter-round on W. -/
theorem exec_qr_of_nodup (h : [a, b, c, d].Nodup) (hs : s.sess = false) :
    exec (.qr a b c d) s = .next (s.mapW (quarterRound · a b c d)).succeed :=
  exec_of_pass (i := .qr a b c d)
    (by simp [checksOf, State.busyCheck, hs, pairwiseDistinct_eq_true_iff_nodup.2 h])

/-- Two equal indices outside a session: IndexAlias. -/
theorem exec_qr_of_equal_indices (h : a = b ∨ a = c ∨ a = d ∨ b = c ∨ b = d ∨ c = d) (hs : s.sess = false) :
    exec (.qr a b c d) s = .next (faultState s 4) := by
  have hdist : pairwiseDistinct a b c d = false := by
    simp only [pairwiseDistinct, decide_eq_false_iff_not]
    tauto
  exact exec_of_fault (i := .qr a b c d) (c := .indexAlias) (by simp [checksOf, State.busyCheck, hs, hdist])

/-! ## The quarter-round and the words it touches (R122) -/

/-- The quarter-round on distinct words is the four lines of R122. -/
theorem quarterRounded_quarterRound (w : Words) (h : [a, b, c, d].Nodup) :
    QuarterRounded w (quarterRound w a b c d) a b c d := by
  obtain ⟨hab, hac, had, hbc, hbd, hcd⟩ := of_decide_eq_true (pairwiseDistinct_eq_true_iff_nodup.2 h)
  have value := quarterRound_getElem w hab hac had hbc hbd hcd
  simp (disch := decide) only [QuarterRounded, value, rotl_eq_rotateLeft]
  refine ⟨?_, ?_, ?_, ?_, fun i ha hb hc hd => ?_⟩
  · simp [hab, hac, had]
  · simp
  · simp [hbc.symm]
  · simp [hbd.symm, hcd.symm]
  · simp [ha, hb, hc, hd]

/-- A quarter-round leaves the other twelve words alone. -/
theorem quarterRound_getElem_of_not_mem (w : Words) (h : [a, b, c, d].Nodup) {i : Fin 16} (hi : i ∉ [a, b, c, d]) :
    (quarterRound w a b c d)[i] = w[i] := by
  obtain ⟨-, -, -, -, hother⟩ := quarterRounded_quarterRound w h
  simp only [List.mem_cons, List.not_mem_nil, or_false, not_or] at hi
  obtain ⟨ha, hb, hc, hd⟩ := hi
  exact hother i ha hb hc hd

/-- A quarter-round reads no word but its four. -/
theorem quarterRound_getElem_congr {v w : Words} (h : [a, b, c, d].Nodup) {i : Fin 16} (hi : v[i] = w[i])
    (hvw : ∀ j ∈ [a, b, c, d], v[j] = w[j]) : (quarterRound v a b c d)[i] = (quarterRound w a b c d)[i] := by
  simp only [List.forall_mem_cons] at hvw
  obtain ⟨ha, hb, hc, hd, -⟩ := hvw
  obtain ⟨hab, hac, had, hbc, hbd, hcd⟩ := of_decide_eq_true (pairwiseDistinct_eq_true_iff_nodup.2 h)
  simp only [quarterRound_getElem _ hab hac had hbc hbd hcd, ha, hb, hc, hd, hi]

/-- Outside the words of one quarter-round, running it before or after a disjoint one makes no difference. -/
theorem quarterRound_comm_getElem (w : Words) (h : [a, b, c, d].Nodup) (h' : [a', b', c', d'].Nodup)
    (hdisj : [a, b, c, d].Disjoint [a', b', c', d']) {i : Fin 16} (hi : i ∉ [a', b', c', d']) :
    (quarterRound (quarterRound w a b c d) a' b' c' d')[i] = (quarterRound (quarterRound w a' b' c' d') a b c d)[i] := by
  have kept {j : Fin 16} (hj : j ∉ [a', b', c', d']) (v : Words) : (quarterRound v a' b' c' d')[j] = v[j] :=
    quarterRound_getElem_of_not_mem v h' hj
  calc (quarterRound (quarterRound w a b c d) a' b' c' d')[i]
      = (quarterRound w a b c d)[i] := kept hi _
    _ = (quarterRound (quarterRound w a' b' c' d') a b c d)[i] :=
        (quarterRound_getElem_congr h (kept hi w) fun _ hj => kept (hdisj hj) w).symm

/-- Quarter-rounds on disjoint words commute. -/
theorem quarterRound_comm (w : Words) (h : [a, b, c, d].Nodup) (h' : [a', b', c', d'].Nodup)
    (hdisj : [a, b, c, d].Disjoint [a', b', c', d']) :
    quarterRound (quarterRound w a b c d) a' b' c' d' = quarterRound (quarterRound w a' b' c' d') a b c d := by
  have pointwise (i : Fin 16) :
      (quarterRound (quarterRound w a b c d) a' b' c' d')[i] =
        (quarterRound (quarterRound w a' b' c' d') a b c d)[i] := by
    by_cases hi : i ∈ [a', b', c', d']
    · exact (quarterRound_comm_getElem w h' h hdisj.symm (hdisj.symm hi)).symm
    · exact quarterRound_comm_getElem w h h' hdisj hi
  exact Vector.ext fun i hi => pointwise ⟨i, hi⟩

/-! ## Sequences of commands that change W alone -/

/-- Outside a session the commands, in order, succeed and apply `f` to W, and nothing else changes. -/
def RunsOnW (is : List Instr) (f : Words → Words) : Prop :=
  ∀ s : State, s.sess = false → execAll is s = some (s.mapW f).succeed

theorem runsOnW_singleton {i : Instr} {f : Words → Words}
    (h : ∀ s : State, s.sess = false → exec i s = .next (s.mapW f).succeed) : RunsOnW [i] f :=
  fun s hs => execAll_cons (h s hs) []

/-- Two sequences, one after the other. -/
theorem RunsOnW.append {is js : List Instr} {f g : Words → Words} (hi : RunsOnW is f) (hj : RunsOnW js g) :
    RunsOnW (is ++ js) fun w => g (f w) := by
  intro s hs
  rw [execAll_append, hi s hs, Option.bind_some, hj (s.mapW f).succeed hs, State.mapW_succeed_mapW]

theorem runsOnW_qr (h : [a, b, c, d].Nodup) : RunsOnW [.qr a b c d] (quarterRound · a b c d) :=
  runsOnW_singleton fun _ hs => exec_qr_of_nodup h hs

/-- The four column quarter-rounds (R125). -/
theorem runsOnW_columns : RunsOnW columns columnRound :=
  (((runsOnW_qr (by decide)).append (runsOnW_qr (by decide))).append (runsOnW_qr (by decide))).append
    (runsOnW_qr (by decide))

/-- The four diagonal quarter-rounds (R126). -/
theorem runsOnW_diagonals : RunsOnW diagonals diagonalRound :=
  (((runsOnW_qr (by decide)).append (runsOnW_qr (by decide))).append (runsOnW_qr (by decide))).append
    (runsOnW_qr (by decide))

theorem exec_colr_of_no_session (hs : s.sess = false) : exec .colr s = .next (s.mapW columnRound).succeed :=
  exec_of_pass (i := .colr) (firstFault_busy hs)

theorem exec_diagr_of_no_session (hs : s.sess = false) : exec .diagr s = .next (s.mapW diagonalRound).succeed :=
  exec_of_pass (i := .diagr) (firstFault_busy hs)

theorem exec_dblr_of_no_session (hs : s.sess = false) : exec .dblr s = .next (s.mapW doubleRound).succeed :=
  exec_of_pass (i := .dblr) (firstFault_busy hs)

/-- COLR, then DIAGR (R89). -/
theorem runsOnW_colr_diagr : RunsOnW [.colr, .diagr] doubleRound :=
  (runsOnW_singleton fun _ => exec_colr_of_no_session).append (runsOnW_singleton fun _ => exec_diagr_of_no_session)

end Sys2Proof.Machine

namespace Sys2Proof.Safety

open Sys2Proof.Machine

/-- Settles O24: the checks are Busy and the lengths, and `InitState` has the layout of R22. -/
theorem initRule : Obligations.InitRule := by
  refine ⟨wordN_of_row fun _ => rfl, busyInSession_of_checks exec_init, checksLengths_of_checks exec_init,
    fun s hs hk hn => ?_⟩
  exact ⟨_, exec_of_pass (i := .init) (firstFault_lengths hs hk hn), initState_layout s.key s.nonce s.counter, rfl⟩

/-- Settles O25: equal indices are IndexAlias, and distinct ones are the four lines of the quarter-round. -/
theorem qrRule : Obligations.QrRule := by
  refine ⟨wordQ_of_row fun _ => rfl, fun a b c d => busyInSession_of_checks (exec_qr · a b c d), fun s a b c d hs =>
    ⟨fun hequal => exec_qr_of_equal_indices hequal hs, fun hab hac had hbc hbd hcd => ?_⟩⟩
  have hnodup : [a, b, c, d].Nodup :=
    pairwiseDistinct_eq_true_iff_nodup.1 (decide_eq_true ⟨hab, hac, had, hbc, hbd, hcd⟩)
  exact ⟨_, exec_qr_of_nodup hnodup hs, quarterRounded_quarterRound s.w hnodup, rfl⟩

/-- Settles O26: COLR and the four QR commands both run `columnRound` on W. -/
theorem colrRule : Obligations.ColrRule :=
  ⟨wordN_of_row fun _ => rfl, busyInSession_of_checks exec_colr,
    fun s hs => ⟨_, runsOnW_columns s hs, exec_colr_of_no_session hs, rfl⟩⟩

/-- Settles O27: DIAGR and the four QR commands both run `diagonalRound` on W. -/
theorem diagrRule : Obligations.DiagrRule :=
  ⟨wordN_of_row fun _ => rfl, busyInSession_of_checks exec_diagr,
    fun s hs => ⟨_, runsOnW_diagonals s hs, exec_diagr_of_no_session hs, rfl⟩⟩

/-- Settles O28: DBLR, the eight QR commands, and COLR with DIAGR all run `doubleRound` on W. -/
theorem dblrRule : Obligations.DblrRule :=
  ⟨wordN_of_row fun _ => rfl, busyInSession_of_checks exec_dblr,
    fun s hs => ⟨_, runsOnW_columns.append runsOnW_diagonals s hs, runsOnW_colr_diagr s hs,
      exec_dblr_of_no_session hs, rfl⟩⟩

/-- Settles O33: on W the two orders are `quarterRound_comm`. -/
theorem disjointQuarterRoundsCommute : Obligations.DisjointQuarterRoundsCommute := by
  intro s a b c d a' b' c' d' hs hnodup
  obtain ⟨h, h', hdisj⟩ := (List.nodup_append' (l₁ := [a, b, c, d])).1 hnodup
  have hqr := runsOnW_qr h
  have hqr' := runsOnW_qr h'
  refine ⟨_, hqr.append hqr' s hs, ?_⟩
  simp only [quarterRound_comm _ h h' hdisj]
  exact hqr'.append hqr s hs

/-- Settles O29: word i of the feed-forward is the sum of the two words i. -/
theorem ffwdRule : Obligations.FfwdRule :=
  ⟨wordN_of_row fun _ => rfl, busyInSession_of_checks exec_ffwd, fun s hs =>
    ⟨_, exec_of_pass (i := .ffwd) (firstFault_busy hs), feedForward_getElem s.w s.s, rfl⟩⟩

/-- Settles O30: its row is format I, its one check is Busy, and its effect sets one word of W. -/
theorem wwRule : Obligations.WwRule := by
  refine ⟨wordI_of_row fun _ => rfl, fun idx => busyInSession_of_checks (exec_ww · idx), fun s idx hs =>
    ⟨_, exec_of_pass (i := .ww idx) (firstFault_busy hs), fun i => ?_, rfl⟩⟩
  simp [effectOf, Vector.getElem_set, Fin.ext_iff, eq_comm]

/-- Settles O31: its row is format I, and it has no check. -/
theorem wrRule : Obligations.WrRule :=
  ⟨wordI_of_row fun _ => rfl, fun _ idx => exec_of_pass (i := .wr idx) rfl⟩

/-- Settles O32: its row is format I, and it has no check. -/
theorem srRule : Obligations.SrRule :=
  ⟨wordI_of_row fun _ => rfl, fun _ idx => exec_of_pass (i := .sr idx) rfl⟩

end Sys2Proof.Safety

/-! SUPPORT. The block commands (43_block.md): what `Generate` computes, in the spec's own terms, and what a success of BLOCK
and a KSR leave. -/

namespace Sys2Proof.Machine

open Sys2Proof.Safety

variable {s t : State}

/-- A command that ends with no code in ERR has taken its effect: no fault's code is 0 (R180, R184). -/
theorem exec_of_err_eq {i : Instr} (h : exec i s = .next t) (he : t.err = 0) : t = (effectOf i s).succeed := by
  obtain ⟨c, -, rfl⟩ | ⟨-, ht⟩ := exec_cases h
  · exact absurd he c.code_ne_zero
  · exact ht

/-- `Generate` computes the block of R150: the initial state's layout, ten DBLR and the feed-forward, and the bytes. -/
theorem blockOf_keystreamBlock (key : Vector Byte 32) (nonce : Vector Byte 12) (ctr : Word) :
    BlockOf key nonce ctr (initState key nonce ctr) (finalWords (initState key nonce ctr))
      (keystreamBlock key nonce ctr) := by
  have hrounds := execAll_dblr 10 (s := { State.reset with w := initState key nonce ctr }) rfl
  exact ⟨initState_layout key nonce ctr, ⟨_, hrounds, feedForward_getElem _ _⟩,
    fun i k => serialize_getElem _ i k.val k.isLt⟩

/-- Byte k of four bytes put together is the byte at k (R11). -/
theorem byteOf_le4_apply (b : Fin 4 → Byte) (k : Fin 4) : byteOf (le4 (b 0) (b 1) (b 2) (b 3)) k = b k := by
  obtain ⟨h0, h1, h2, h3⟩ := byteOf_le4 (b 0) (b 1) (b 2) (b 3)
  fin_cases k
  · exact h0
  · exact h1
  · exact h2
  · exact h3

/-- The bytes of a word of KS (R52, R152). -/
theorem byteOf_ksWord (ks : Vector Byte 64) (i : Fin 16) (k : Fin 4) : byteOf (ksWord ks i) k = ks[4 * i.val + k.val] :=
  byteOf_le4_apply (fun k => ks[4 * i.val + k.val]) k

/-- After `Generate`, a word of KS is the final word of the same index (R150, R52). -/
theorem ksWord_generate (s : State) (ctr : Word) (i : Fin 16) : ksWord (s.generate ctr).ks i = (s.generate ctr).w[i] :=
  ksWord_serialize _ i

end Sys2Proof.Machine

namespace Sys2Proof.Safety

open Sys2Proof.Machine

/-- Settles O34: the checks are Busy and the lengths, and `Generate` at COUNTER computes R150's block. -/
theorem blockRule : Obligations.BlockRule := by
  refine ⟨wordN_of_row fun _ => rfl, busyInSession_of_checks exec_block, checksLengths_of_checks exec_block,
    fun s hs hk hn => ?_⟩
  exact ⟨_, exec_of_pass (i := .block) (firstFault_lengths hs hk hn), blockOf_keystreamBlock s.key s.nonce s.counter, rfl⟩

/-- Settles O36: BLOCK ends in `Generate`, after which a word of KS is the word of W. -/
theorem ksrShowsTheFinalWords : Obligations.KsrShowsTheFinalWords := by
  intro s t idx h he
  have hword : ksWord t.ks idx = t.w[idx] := by
    rw [exec_of_err_eq h he]
    exact ksWord_generate s s.counter idx
  simp only [exec_ksr, exec_wr, command_of_pass firstFault_nil, hword]

/-- Settles O37: KS, W and S after a success are functions of KEY, NONCE and COUNTER. -/
theorem blockDependsOnlyOnKeyNonceAndCounter : Obligations.BlockDependsOnlyOnKeyNonceAndCounter := by
  intro s1 s2 t1 t2 hkey hnonce hcounter h1 h2 he1 he2
  rw [exec_of_err_eq h1 he1, exec_of_err_eq h2 he2]
  simp [effectOf, hkey, hnonce, hcounter]

/-- Settles O35: its row is format I, it has no check, and its word is the four bytes of KS. -/
theorem ksrRule : Obligations.KsrRule :=
  ⟨wordI_of_row fun _ => rfl, fun s idx => ⟨_, exec_of_pass (i := .ksr idx) rfl, byteOf_ksWord s.ks idx, rfl⟩⟩

end Sys2Proof.Safety

/-! SUPPORT. The stream commands (44_stream.md): the keystream bytes that a state hands out one after another, XB and XW as
the taking of one and of four of them, and a session as the bytes it has used. -/

namespace Sys2Proof.Machine

open Sys2Proof.Safety

variable {s : State}

/-! ## Keystream bytes one after another (R161) -/

/-- The state after `n` uses of `NextKeyByte`. -/
def State.after (s : State) : Nat → State
  | 0 => s
  | n + 1 => (s.after n).nextKeyByte.2

/-- The keystream byte that the next use of `NextKeyByte` gives after `n` of them. -/
def State.keyByte (s : State) (n : Nat) : Byte := (s.after n).nextKeyByte.1

/-- The first of `n + 1` uses may be counted apart. -/
theorem State.after_succ (s : State) (n : Nat) : s.after (n + 1) = s.nextKeyByte.2.after n := by
  induction n with
  | zero => rfl
  | succ n ih => exact congrArg (fun t => t.nextKeyByte.2) ih

theorem State.keyByte_succ (s : State) (n : Nat) : s.keyByte (n + 1) = s.nextKeyByte.2.keyByte n :=
  congrArg (fun t => t.nextKeyByte.1) (s.after_succ n)

/-- Up to the end of the block in hand only POS moves. -/
theorem State.after_of_le {n : Nat} (h : s.pos.val + n ≤ 64) :
    s.after n = { s with pos := ⟨s.pos.val + n, by omega⟩ } := by
  induction n with
  | zero => rfl
  | succ n ih =>
    rw [State.after, ih (by omega), State.nextKeyByte_of_lt (by show s.pos.val + n < 64; omega)]
    rfl

/-- Past the end of the block in hand, the session's next block has been generated. -/
theorem State.after_of_gt {n : Nat} (h : 64 < s.pos.val + n) (hn : n ≤ 64) :
    s.after n = { s.nextBlock with pos := ⟨s.pos.val + n - 64, by omega⟩ } := by
  induction n with
  | zero => exact absurd s.pos.isLt (by omega)
  | succ n ih =>
    by_cases hp : s.pos.val + n = 64
    · have hpos : (⟨s.pos.val + (n + 1) - 64, by omega⟩ : Fin 65) = 1 := Fin.ext (show s.pos.val + (n + 1) - 64 = 1 by omega)
      rw [State.after, State.after_of_le (by omega), State.nextKeyByte_of_eq (Fin.ext hp), hpos]
      rfl
    · have hpos : s.pos.val + n - 64 + 1 = s.pos.val + (n + 1) - 64 := by omega
      rw [State.after, ih (by omega) (by omega), State.nextKeyByte_of_lt (by show s.pos.val + n - 64 < 64; omega)]
      simp only [hpos]

/-- A byte of the block in hand. -/
theorem State.keyByte_of_lt {n : Nat} (h : s.pos.val + n < 64) : s.keyByte n = s.ks[s.pos.val + n] := by
  rw [State.keyByte, State.after_of_le (by omega), State.nextKeyByte_of_lt h]

/-- A byte of the session's next block. -/
theorem State.keyByte_of_ge {n : Nat} (h : 64 ≤ s.pos.val + n) (hn : n < 64) :
    s.keyByte n = s.nextBlock.ks[s.pos.val + n - 64] := by
  by_cases hp : s.pos.val + n = 64
  · rw [State.keyByte, State.after_of_le hp.le, State.nextKeyByte_of_eq (Fin.ext (by exact hp))]
    simp [hp]
  · rw [State.keyByte, State.after_of_gt (by omega) hn.le,
      State.nextKeyByte_of_lt (by show s.pos.val + n - 64 < 64; omega)]

theorem State.HasBytes.mono {n m : Nat} (h : s.HasBytes m) (hnm : n ≤ m) : s.HasBytes n :=
  have ⟨hs, hb⟩ := h
  ⟨hs, fun ⟨hlt, hmax⟩ => hb ⟨by omega, hmax⟩⟩

/-- Of bytes that a session can hand out at once, each can be had after the ones before it. -/
theorem State.HasBytes.after {n m : Nat} (h : s.HasBytes (n + m)) (hnm : n + m ≤ 64) : (s.after n).HasBytes m := by
  induction n generalizing m with
  | zero => rwa [Nat.zero_add] at h
  | succ n ih => exact (ih (m := m + 1) (by rwa [← Nat.succ_add_eq_add_succ]) (by omega)).nextKeyByte (by omega)

/-! ## What `NextKeyByte` neither reads nor writes -/

/-- The state with other values in DIN, DOUT and ERR. -/
def State.withIo (s : State) (din dout : Word) (err : BitVec 4) : State := { s with din := din, dout := dout, err := err }

theorem State.dinByte_withIo (s : State) (d v : Word) (e : BitVec 4) (k : Nat) : (s.withIo d v e).dinByte k = byteOf d k :=
  rfl

theorem State.nextKeyByte_withIo (s : State) (d v : Word) (e : BitVec 4) :
    (s.withIo d v e).nextKeyByte = (s.nextKeyByte.1, s.nextKeyByte.2.withIo d v e) := by
  obtain h | h := s.pos_cases
  · rw [State.nextKeyByte_of_lt h, State.nextKeyByte_of_lt (s := s.withIo d v e) h]
    rfl
  · rw [State.nextKeyByte_of_eq h, State.nextKeyByte_of_eq (s := s.withIo d v e) h]
    rfl

theorem State.after_withIo (s : State) (d v : Word) (e : BitVec 4) (n : Nat) :
    (s.withIo d v e).after n = (s.after n).withIo d v e := by
  induction n with
  | zero => rfl
  | succ n ih => rw [State.after, ih, State.nextKeyByte_withIo]; rfl

theorem State.keyByte_withIo (s : State) (d v : Word) (e : BitVec 4) (n : Nat) :
    (s.withIo d v e).keyByte n = s.keyByte n := by
  rw [State.keyByte, State.after_withIo, State.nextKeyByte_withIo]; rfl

/-! ## The checks of XB and XW (R163, R164, R167) -/

theorem firstFault_of_no_session {n : Nat} (hs : s.sess = false) :
    firstFault [s.sessionCheck, s.exhaustionCheck n] = some .noSession := by
  simp [State.sessionCheck, hs]

theorem firstFault_of_exhausted {n : Nat} (hs : s.sess = true) (hp : 64 < s.pos.val + n) (hb : s.blks = 0x100000000) :
    firstFault [s.sessionCheck, s.exhaustionCheck n] = some .keystreamExhausted := by
  simp [State.sessionCheck, State.exhaustionCheck, Config.maxBlocks, hs, hp, hb]

theorem State.HasBytes.checks_pass {n : Nat} (h : s.HasBytes n) :
    firstFault [s.sessionCheck, s.exhaustionCheck n] = none :=
  have ⟨hs, hb⟩ := h
  firstFault_stream hs hb

/-! ## XB and XW (R163, R164) -/

theorem exec_xb_of_hasBytes (h : s.HasBytes 1) : exec .xb s = .next (s.xorByte (s.dinByte 0)).succeed :=
  exec_of_pass (i := .xb) h.checks_pass

/-- XW takes four keystream bytes, one for each byte of DIN. -/
theorem exec_xw_of_hasBytes (h : s.HasBytes 4) : ∃ v, exec .xw s = .next ((s.after 4).output v).succeed ∧
    ∀ k : Fin 4, byteOf v k = byteOf s.din k ^^^ s.keyByte k :=
  ⟨_, exec_of_pass (i := .xw) h.checks_pass, byteOf_le4_apply fun k => byteOf s.din k ^^^ s.keyByte k⟩

/-- A byte as a DIN or DOUT word is byte 0 of the word (R51). -/
theorem byteOf_setWidth (b : Byte) : byteOf (b.setWidth 32) 0 = b :=
  (BitVec.extractLsb'_setWidth_of_le (by decide)).trans BitVec.extractLsb'_eq_self

theorem State.xorByte_withIo (s : State) (d v : Word) (e : BitVec 4) (p : Byte) :
    ((s.withIo d v e).xorByte p).succeed = s.nextKeyByte.2.withIo d ((p ^^^ s.keyByte 0).setWidth 32) 0 := by
  rw [State.xorByte, State.nextKeyByte_withIo]
  rfl

/-- XB in a run of bytes: the host collects the byte, and DIN, DOUT and ERR are the only traces of it beside the keystream. -/
theorem streamBytes_cons (h : s.HasBytes 1) (p : Byte) (ps : List Byte) : ∃ d v, streamBytes (p :: ps) s =
    (streamBytes ps (s.nextKeyByte.2.withIo d v 0)).map fun r => ((p ^^^ s.keyByte 0) :: r.1, r.2) := by
  have hexec : exec .xb { s with din := p.setWidth 32 } =
      .next (s.nextKeyByte.2.withIo (p.setWidth 32) ((p ^^^ s.keyByte 0).setWidth 32) 0) := by
    have hxb := exec_xb_of_hasBytes (s := s.withIo (p.setWidth 32) s.dout s.err) h
    rwa [State.xorByte_withIo, State.dinByte_withIo, byteOf_setWidth] at hxb
  have hdout : ((p ^^^ s.keyByte 0).setWidth 32).extractLsb' 0 8 = p ^^^ s.keyByte 0 := byteOf_setWidth _
  refine ⟨p.setWidth 32, (p ^^^ s.keyByte 0).setWidth 32, ?_⟩
  rw [streamBytes, hexec]
  simp only [State.withIo, hdout, if_true]

/-- A run of bytes that the session can hand out: byte i comes back with keystream byte i, and beside the keystream only
DIN, DOUT and ERR change; ERR is 0 once a byte has been taken. -/
theorem streamBytes_of_hasBytes (data : List Byte) (h : ∀ n < data.length, (s.after n).HasBytes 1) :
    ∃ d v, streamBytes data s = some (data.mapIdx fun n p => p ^^^ s.keyByte n,
      (s.after data.length).withIo d v (if data = [] then s.err else 0)) := by
  induction data generalizing s with
  | nil => exact ⟨s.din, s.dout, rfl⟩
  | cons p ps ih =>
    obtain ⟨d, v, hcons⟩ := streamBytes_cons (s := s) (h 0 (Nat.succ_pos _)) p ps
    have hrest (n : Nat) (hn : n < ps.length) : ((s.nextKeyByte.2.withIo d v 0).after n).HasBytes 1 := by
      rw [State.after_withIo, ← State.after_succ]
      exact h (n + 1) (Nat.succ_lt_succ hn)
    obtain ⟨d', v', hps⟩ := ih hrest
    have herr : (if ps = [] then (s.nextKeyByte.2.withIo d v 0).err else 0) = 0 := ite_self 0
    refine ⟨d', v', ?_⟩
    rw [hcons, hps, herr]
    simp only [Option.map_some, State.after_withIo, State.keyByte_withIo, ← State.keyByte_succ, ← State.after_succ,
      List.mapIdx_cons, List.length_cons, List.cons_ne_nil, if_false]
    rfl

end Sys2Proof.Machine

namespace Sys2Proof.Safety

open Sys2Proof.Machine

/-! ## The stream commands -/

/-- Settles O39: the checks are Busy and the lengths, and its effect writes the session's registers. -/
theorem sbeginRule : Obligations.SbeginRule :=
  ⟨wordN_of_row fun _ => rfl, busyInSession_of_checks exec_sbegin, checksLengths_of_checks exec_sbegin,
    fun _ hs hk hn => exec_of_pass (i := .sbegin) (firstFault_lengths hs hk hn)⟩

/-- Settles O42: its row is format N, it has no check, and its effect clears SESS. -/
theorem sendRule : Obligations.SendRule :=
  ⟨wordN_of_row fun _ => rfl, fun _ => exec_of_pass (i := .send) rfl⟩

/-- Settles O40: the two checks in their order, then a byte in hand or byte 0 of the block at CTRN. -/
theorem xbRule : Obligations.XbRule := by
  refine ⟨wordN_of_row fun _ => rfl, fun s hs => exec_of_fault (i := .xb) (firstFault_of_no_session hs),
    fun s hs hp hb => exec_of_fault (i := .xb) (firstFault_of_exhausted hs (by simp [hp]) hb), fun s hs hp => ?_,
    fun s hs hp hb => ?_⟩
  · refine ⟨_, exec_xb_of_hasBytes ⟨hs, fun ⟨hlt, _⟩ => by omega⟩, ?_⟩
    rw [State.xorByte_of_lt _ hp]
    exact ⟨rfl, rfl⟩
  · refine ⟨_, exec_xb_of_hasBytes ⟨hs, fun ⟨_, hmax⟩ => hb hmax⟩, ?_⟩
    rw [State.xorByte_of_eq _ hp]
    exact ⟨blockOf_keystreamBlock s.key s.nonce s.ctrn, rfl⟩

/-- Settles O41: the two checks in their order, then four bytes, each of the block in hand or of the block at CTRN. -/
theorem xwRule : Obligations.XwRule := by
  refine ⟨wordN_of_row fun _ => rfl, fun s hs => exec_of_fault (i := .xw) (firstFault_of_no_session hs),
    fun s hs hp hb => exec_of_fault (i := .xw) (firstFault_of_exhausted hs (by omega) hb), fun s hs hp => ?_,
    fun s hs hp hb => ?_⟩
  · obtain ⟨v, hexec, hv⟩ := exec_xw_of_hasBytes (s := s) ⟨hs, fun ⟨hlt, _⟩ => by omega⟩
    rw [State.after_of_le (by omega)] at hexec
    refine ⟨_, hexec, rfl, fun k => (hv k).trans ?_, rfl⟩
    rw [State.keyByte_of_lt (by omega)]
    simp only [Nat.mod_eq_of_lt (show s.pos.val + k.val < 64 by omega)]
    rfl
  · obtain ⟨v, hexec, hv⟩ := exec_xw_of_hasBytes (s := s) ⟨hs, fun ⟨_, hmax⟩ => hb hmax⟩
    rw [State.after_of_gt (by omega) (by decide)] at hexec
    refine ⟨_, hexec, blockOf_keystreamBlock s.key s.nonce s.ctrn, rfl, fun k => (hv k).trans ?_, rfl⟩
    by_cases hk : s.pos.val + k.val < 64
    · rw [State.keyByte_of_lt hk]
      simp only [hk, if_true, Nat.mod_eq_of_lt hk]
      rfl
    · rw [State.keyByte_of_ge (by omega) (by omega)]
      simp only [hk, if_false, show (s.pos.val + k.val) % 64 = s.pos.val + k.val - 64 by omega]
      rfl

/-- Settles O43: the four XB take the same keystream bytes as XW, and leave the same state beside DIN, DOUT and ERR. -/
theorem xwIsFourXb : Obligations.XwIsFourXb := by
  intro s hs hb
  have hbytes : s.HasBytes 4 := ⟨hs, fun ⟨hlt, hmax⟩ => hb ⟨by omega, hmax⟩⟩
  obtain ⟨d, v, hstream⟩ := streamBytes_of_hasBytes
    [s.din.extractLsb' 0 8, s.din.extractLsb' 8 8, s.din.extractLsb' 16 8, s.din.extractLsb' 24 8]
    fun n (hn : n < 4) => (hbytes.mono (show n + 1 ≤ 4 from hn)).after (by omega)
  obtain ⟨w, hexec, hw⟩ := exec_xw_of_hasBytes hbytes
  have hdin : (s.after 4).din = s.din := State.xorWord_din s
  refine ⟨_, _, _, _, _, hstream, _, hexec, ?_, hw 0, hw 1, hw 2, hw 3⟩
  rw [← hdin]
  rfl

/-! ## The bytes of a session (R160) -/

/-- Keystream byte `n` of a session of the key, the nonce and the counter that are loaded in `b`. -/
def sessionByte (b : State) (n : Nat) : Byte :=
  (keystreamBlock b.key b.nonce (b.counter + BitVec.ofNat 32 (n / 64)))[n % 64]'(Nat.mod_lt n (Nat.succ_pos 63))

/-- What a session gives for the data: each byte with the session's byte of the same place (R160, R168). -/
def sessionOutput (b : State) (data : List Byte) : List Byte := data.mapIdx fun n p => p ^^^ sessionByte b n

/-- Exclusive-or with the same byte twice is nothing (R169). -/
theorem sessionOutput_sessionOutput (b : State) (data : List Byte) : sessionOutput b (sessionOutput b data) = data := by
  rw [sessionOutput, sessionOutput, List.mapIdx_mapIdx, List.mapIdx_eq_iff]
  intro n
  simp [Function.comp_def]

/-- The core is in a session of the key, the nonce and the counter loaded in `b` and has used `n` bytes of it. -/
structure SessionAt (b : State) (n : Nat) (s : State) : Prop where
  sess : s.sess = true
  key : s.key = b.key
  klen : s.klen = 32
  nonce : s.nonce = b.nonce
  nlen : s.nlen = 12
  counter : s.counter = b.counter
  pos_ne_zero : s.pos.val ≠ 0
  offset : 64 * s.blks.toNat + s.pos.val = n + 64
  ctrn : s.ctrn = s.counter + s.blks.setWidth 32
  block : s.pos.val < 64 → s.ks = keystreamBlock s.key s.nonce (s.ctrn - 1)

/-- With a byte in hand the session has generated a block (R31, R162). -/
theorem Inv.blks_ne_zero {s : State} (hi : Inv s) (hp : s.pos.val < 64) : s.blks ≠ 0 := fun h =>
  absurd (congrArg Fin.val (hi.fresh h)) (Nat.ne_of_lt hp)

/-- BLKS and POS have counted the first block before any byte of it is used. -/
theorem Inv.le_blks_pos {s : State} (hi : Inv s) : 64 ≤ 64 * s.blks.toNat + s.pos.val := by
  obtain hp | hp := s.pos_cases
  · have : s.blks.toNat ≠ 0 := fun h => hi.blks_ne_zero hp (BitVec.eq_of_toNat_eq h)
    omega
  · exact Nat.le_add_left_of_le (by simp [hp])

/-- The invariant of a safe run says of a session how far it is. -/
theorem Inv.sessionAt {s : State} (hi : Inv s) (hs : s.sess = true) : SessionAt s (sessionOffset s) s :=
  have ⟨hk, hn⟩ := hi.session_lengths hs
  { sess := hs
    key := rfl
    klen := hk
    nonce := rfl
    nlen := hn
    counter := rfl
    pos_ne_zero := hi.pos_ne_zero
    offset := (Nat.sub_add_cancel hi.le_blks_pos).symm
    ctrn := hi.session_counter hs
    block := fun hp =>
      have ⟨_, _, hks⟩ := hi.session_block hs (hi.blks_ne_zero hp)
      hks }

section

variable {b s : State} {n : Nat}

/-- How many bytes have been used is what BLKS and POS say. -/
theorem SessionAt.sessionOffset_eq (h : SessionAt b n s) : sessionOffset s = n :=
  Nat.sub_eq_of_eq_add h.offset

theorem SessionAt.sessionByte_eq (h : SessionAt b n s) : sessionByte s = sessionByte b := by
  funext m
  simp only [sessionByte, h.key, h.nonce, h.counter]

theorem SessionAt.withIo (h : SessionAt b n s) (d v : Word) (e : BitVec 4) : SessionAt b n (s.withIo d v e) := { h with }

/-- Before 2^38 bytes are used a session has the next one (R167). -/
theorem SessionAt.hasBytes (h : SessionAt b n s) (hn : n < 2 ^ 38) : s.HasBytes 1 := by
  refine ⟨h.sess, fun ⟨hlt, hmax⟩ => ?_⟩
  have hoff := h.offset
  rw [hmax, show Config.maxBlocks.toNat = 2 ^ 32 by decide] at hoff
  omega

/-- The next byte of the session is its byte `n`, and one more is used then. -/
theorem SessionAt.nextKeyByte (h : SessionAt b n s) (hn : n < 2 ^ 38) :
    s.nextKeyByte.1 = sessionByte b n ∧ SessionAt b (n + 1) s.nextKeyByte.2 := by
  have hoff := h.offset
  have hpos := h.pos_ne_zero
  rw [← h.sessionByte_eq, sessionByte]
  obtain hp | hp := s.pos_cases
  · have hblks : s.blks.toNat = n / 64 + 1 := by omega
    have hctr : s.ctrn - 1 = s.counter + BitVec.ofNat 32 (n / 64) := by
      rw [h.ctrn, ← BitVec.ofNat_toNat, hblks, BitVec.ofNat_add, ← BitVec.add_assoc]
      exact BitVec.add_sub_cancel _ _
    rw [State.nextKeyByte_of_lt hp]
    refine ⟨?_, { h with pos_ne_zero := Nat.succ_ne_zero _, offset := ?_, block := fun _ => h.block hp }⟩
    · simp only [h.block hp, hctr, show s.pos.val = n % 64 by omega]
    · show 64 * s.blks.toNat + (s.pos.val + 1) = n + 1 + 64
      omega
  · have hpv : s.pos.val = 64 := congrArg Fin.val hp
    have hblks : s.blks.toNat = n / 64 := by omega
    have hsucc : (s.blks + 1).toNat = s.blks.toNat + 1 := BitVec.toNat_add_of_lt (by simp; omega)
    rw [State.nextKeyByte_of_eq hp]
    refine ⟨?_, { h with pos_ne_zero := Nat.one_ne_zero, offset := ?_, ctrn := ?_, block := fun _ => ?_ }⟩
    · simp only [h.ctrn, ← BitVec.ofNat_toNat, hblks, show n % 64 = 0 by omega]
    · show 64 * (s.blks + 1).toNat + 1 = n + 1 + 64
      omega
    · simp [h.ctrn, BitVec.setWidth_add, BitVec.add_assoc]
    · simp

theorem SessionAt.after (h : SessionAt b 0 s) (hn : n ≤ 2 ^ 38) : SessionAt b n (s.after n) := by
  induction n with
  | zero => exact h
  | succ n ih =>
    obtain ⟨-, hnext⟩ := (ih (by omega)).nextKeyByte hn
    exact hnext

theorem SessionAt.keyByte (h : SessionAt b 0 s) (hn : n < 2 ^ 38) : s.keyByte n = sessionByte b n := by
  obtain ⟨hbyte, -⟩ := (h.after hn.le).nextKeyByte hn
  exact hbyte

/-- SBEGIN is where a session begins (R162). -/
theorem sessionAt_begin (hk : s.klen = 32) (hn : s.nlen = 12) : SessionAt s 0 (effectOf .sbegin s).succeed where
  sess := rfl
  key := rfl
  klen := hk
  nonce := rfl
  nlen := hn
  counter := rfl
  pos_ne_zero := Nat.succ_ne_zero 63
  offset := rfl
  ctrn := (BitVec.add_zero s.counter).symm
  block := fun hlt => absurd hlt (Nat.lt_irrefl 64)

/-- SBEGIN and the XB of the data give `sessionOutput`, and each byte counts. -/
theorem exec_sbegin_streamBytes (hs : s.sess = false) (hk : s.klen = 32) (hn : s.nlen = 12) {data : List Byte}
    (hl : data.length ≤ 2 ^ 38) : ∃ t e, exec .sbegin s = .next t ∧
      streamBytes data t = some (sessionOutput s data, e) ∧ SessionAt s data.length e := by
  have hbegin := sessionAt_begin hk hn
  obtain ⟨d, v, hstream⟩ := streamBytes_of_hasBytes data fun n hlt => (hbegin.after (by omega)).hasBytes (by omega)
  have hbytes : (data.mapIdx fun n p => p ^^^ (effectOf .sbegin s).succeed.keyByte n) = sessionOutput s data :=
    List.mapIdx_eq_mapIdx_iff.2 fun n hlt => by rw [hbegin.keyByte (by omega)]
  rw [hbytes] at hstream
  exact ⟨_, _, exec_of_pass (i := .sbegin) (firstFault_lengths hs hk hn), hstream, (hbegin.after hl).withIo d v _⟩

end

/-- Settles O55: the invariant says how far the session is, and XB takes its next byte. -/
theorem sessionByteUsesItsKeystreamByte : Obligations.SessionByteUsesItsKeystreamByte := by
  intro s hi hs hn
  have h := hi.sessionAt hs
  obtain ⟨hbyte, hnext⟩ := h.nextKeyByte hn
  refine ⟨_, exec_xb_of_hasBytes (h.hasBytes hn), rfl, hnext.sess, hnext.sessionOffset_eq, ?_⟩
  exact congrArg (fun k => (byteOf s.din 0 ^^^ k).setWidth 32) hbyte

/-- Settles O56: the bytes are `sessionOutput`, and BLKS and POS count them. -/
theorem sessionIsApply : Obligations.SessionIsApply := by
  intro s data hs hk hn hl
  obtain ⟨b, e, hbegin, hstream, he⟩ := exec_sbegin_streamBytes hs hk hn hl
  have hoff := he.offset
  have hpos := he.pos_ne_zero
  have hlt := e.pos.isLt
  exact ⟨b, _, e, hbegin, hstream, List.length_mapIdx, fun n => List.getElem?_mapIdx, by omega, fun _ => by omega,
    fun _ => Fin.ext (show e.pos.val = 64 by omega)⟩

/-- Settles O57: SEND keeps what the session was begun from, so the second session has the same bytes. -/
theorem applyTwiceGivesTheDataBack : Obligations.ApplyTwiceGivesTheDataBack := by
  intro s data hs hk hn hl
  obtain ⟨b, e, hbegin, hstream, he⟩ := exec_sbegin_streamBytes hs hk hn hl
  have hlength : (sessionOutput s data).length = data.length := List.length_mapIdx
  obtain ⟨b', e', hbegin', hstream', -⟩ :=
    exec_sbegin_streamBytes (s := (effectOf .send e).succeed) rfl he.klen he.nlen (hlength.trans_le hl)
  have hback : sessionOutput (effectOf .send e).succeed (sessionOutput s data) = data := by
    rw [sessionOutput, show sessionByte (effectOf .send e).succeed = sessionByte s from he.sessionByte_eq]
    exact sessionOutput_sessionOutput s data
  rw [hback] at hstream'
  exact ⟨b, _, e, _, b', e', hbegin, hstream, exec_of_pass (i := .send) rfl, hbegin', hstream'⟩

end Sys2Proof.Safety

/-! SUPPORT. How a command ends (60_exceptions.md): the code it reports and FAULTED after it. -/

namespace Sys2Proof.Machine

open Sys2Proof.Safety

variable {s t : State} {i : Instr}

/-- The code that a list of checks reports: that of the first that applies, and 0 if none does (R183, R184). -/
def checkedCode (l : List (Bool × ErrorCode)) : BitVec 4 := (firstFault l).elim 0 ErrorCode.code

@[simp] theorem checkedCode_nil : checkedCode [] = 0 := rfl

@[simp] theorem checkedCode_cons (b : Bool) (c : ErrorCode) (l : List (Bool × ErrorCode)) :
    checkedCode ((b, c) :: l) = if b then c.code else checkedCode l := by
  cases b <;> rfl

/-- A command ends with the code of its checks in ERR. -/
theorem exec_err (h : exec i s = .next t) : t.err = checkedCode (checksOf i s) := by
  obtain ⟨c, hc, rfl⟩ | ⟨hc, rfl⟩ := exec_cases h <;> rw [checkedCode, hc] <;> rfl

/-- FAULTED is 1 after a code, and otherwise as before, or 0 after RST (R182, R184, R185). -/
theorem exec_faulted (h : exec i s = .next t) : t.faulted = true ↔ t.err ≠ 0 ∨ s.faulted = true ∧ i ≠ .rst := by
  obtain ⟨c, -, rfl⟩ | ⟨-, rfl⟩ := exec_cases h
  · exact iff_of_true rfl (.inl c.code_ne_zero)
  · by_cases hi : i = .rst
    · subst hi
      exact iff_of_false Bool.noConfusion (by simp)
    · obtain ⟨-, -, hkeep⟩ := effectOf_frame i s
      simp [hi, hkeep hi]

/-- Of the commands exactly RST clears FAULTED (R185, R91). -/
theorem exec_clears_faulted_iff (h : exec i s = .next t) (hs : s.faulted = true) : t.faulted = false ↔ i = .rst := by
  constructor
  · intro ht
    by_contra hi
    exact absurd (exec_keeps_faulted h hi hs) (by simp [ht])
  · rintro rfl
    obtain rfl := Host.Outcome.next.inj h
    rfl

/-! ## The codes of a command -/

/-- For XB the condition on POS is that no byte is in hand (R163). -/
theorem State.exhaustionCheck_one (s : State) :
    s.exhaustionCheck 1 = (s.pos == 64 && s.blks == 0x100000000, .keystreamExhausted) := by
  have hpos : 64 < s.pos.val + 1 ↔ s.pos = 64 := by rw [Fin.ext_iff]; omega
  simp only [State.exhaustionCheck, hpos]
  rfl

/-- For XW the condition on POS is that fewer than four bytes are in hand (R164). -/
theorem State.exhaustionCheck_four (s : State) :
    s.exhaustionCheck 4 = (decide (61 ≤ s.pos.val) && s.blks == 0x100000000, .keystreamExhausted) := by
  have hpos : 64 < s.pos.val + 4 ↔ 61 ≤ s.pos.val := by omega
  simp only [State.exhaustionCheck, hpos]
  rfl

/-- The spec's table of causes is the model's list of checks: each command's checks stand in R183's order and report the
codes of its row (R180, R181). An index of RDR above 4, which only a word that is no command has, is no row of the table. -/
theorem reportedCode_eq_checkedCode (hi : i.wellFormed = true) (s : State) :
    reportedCode i s = checkedCode (checksOf i s) := by
  cases i with
  | nop | rst | wr x | sr x | ksr x | send => rfl
  | rdr x =>
    have hx : x.val ≤ 4 := of_decide_eq_true hi
    simp [reportedCode, allowedInSession, checksOf, Nat.not_lt_of_le hx]
  | kclr | kb | kw | nclr | nb | nw | ctrw | colr | diagr | dblr | ffwd | ww x =>
    simp [reportedCode, allowedInSession, checksOf, State.busyCheck, ErrorCode.code]
  | qr a b c d =>
    simp [reportedCode, allowedInSession, checksOf, State.busyCheck, pairwiseDistinct, ErrorCode.code, or_assoc]
  | init | block | sbegin =>
    simp [reportedCode, allowedInSession, checksOf, State.busyCheck, State.lengthChecks, ErrorCode.code]
  | xb => simp [reportedCode, allowedInSession, checksOf, State.sessionCheck, State.exhaustionCheck_one, ErrorCode.code]
  | xw => simp [reportedCode, allowedInSession, checksOf, State.sessionCheck, State.exhaustionCheck_four, ErrorCode.code]

/-- RST has one word (R76, R83). -/
theorem decode_eq_rst_iff {cmd : Word} : decode cmd = .ok .rst ↔ cmd = 0x01000000 := by
  constructor
  · intro h
    obtain ⟨-, rfl⟩ := encodeOfDecodeIsTheWord cmd .rst h
    decide
  · rintro rfl
    decide

end Sys2Proof.Machine

namespace Sys2Proof.Safety

open Sys2Proof.Machine

/-- Settles O45: a word that is no command raises 3, and a command that ends with a code has raised it. -/
theorem faultChangesOnlyErrAndFaulted : Obligations.FaultChangesOnlyErrAndFaulted := by
  intro s cmd din rest
  cases hd : decode cmd with
  | error e => exact ⟨_, step_issuing_error hd, fun _ => rfl⟩
  | ok i =>
    obtain ⟨t, ht⟩ := exec_answers i (presented s din rest)
    refine ⟨t, (step_issuing_ok hd).trans ht, fun he => ?_⟩
    obtain ⟨c, rfl⟩ := exec_of_err_ne ht he
    rfl

/-- Settles O46: with no code in ERR, FAULTED is as before but after RST. -/
theorem successLeavesFaulted : Obligations.SuccessLeavesFaulted := by
  intro i s t h he
  have hf := exec_faulted h
  refine ⟨fun hi => ?_, fun hi => ?_⟩
  · rw [Bool.eq_iff_iff, hf]
    simp [he, hi]
  · rw [← Bool.not_eq_true, hf]
    simp [he, hi]

/-- A list that begins with a pair begins with RESET or the word of RST exactly when the CMD of that pair is RST's (R91). -/
theorem reset_or_rst_next_iff {cmd din : Word} {rest : List HostInput} :
    ((∃ rest', HostInput.command cmd din :: rest = .reset :: rest') ∨
      ∃ din' rest', HostInput.command cmd din :: rest = .command 0x01000000 din' :: rest') ↔ cmd = 0x01000000 := by
  constructor
  · rintro (⟨_, ⟨⟩⟩ | ⟨_, _, ⟨⟩⟩)
    rfl
  · rintro rfl
    exact .inr ⟨din, rest, rfl⟩

/-- Settles O47, by the cases of a step: of the commands only RST clears FAULTED, and RST has one word. -/
theorem faultedIsSticky : Obligations.FaultedIsSticky := by
  intro s t h hs
  obtain ⟨hin, hstep⟩ | ⟨rest, hin, hstep⟩ | ⟨cmd, din, rest, e, hin, hd, hstep⟩ | ⟨cmd, din, rest, i, hin, hd, hstep⟩ :=
    step_cases s <;> rw [hstep] at h
  · obtain rfl := Host.Outcome.next.inj h
    simp [hs, hin]
  · obtain rfl := Host.Outcome.next.inj h
    exact iff_of_true rfl (.inl ⟨rest, hin⟩)
  · obtain rfl := Host.Outcome.next.inj h
    rw [hin, reset_or_rst_next_iff, ← decode_eq_rst_iff, hd]
    exact iff_of_false Bool.noConfusion nofun
  · rw [hin, reset_or_rst_next_iff, ← decode_eq_rst_iff, hd, Except.ok.injEq]
    exact exec_clears_faulted_iff h hs

/-- Settles O48: a word that is no command raises 3, and a command reports the code of its checks. -/
theorem reportedCodeFollowsTheCheckOrder : Obligations.ReportedCodeFollowsTheCheckOrder := by
  intro s cmd din rest
  cases hd : decode cmd with
  | error e => exact ⟨_, step_issuing_error hd, fun _ => ⟨rfl, rfl⟩, nofun⟩
  | ok i =>
    obtain ⟨hwf, -⟩ := encodeOfDecodeIsTheWord cmd i hd
    obtain ⟨t, ht⟩ := exec_answers i (presented s din rest)
    have herr : t.err = reportedCode i (presented s din rest) :=
      (exec_err ht).trans (reportedCode_eq_checkedCode hwf _).symm
    refine ⟨t, (step_issuing_ok hd).trans ht, fun hno => absurd rfl (hno i), ?_⟩
    rintro _ ⟨⟩
    exact ⟨herr, herr ▸ exec_faulted (s := presented s din rest) ht⟩

/-- Settles O9: an empty list has no event to run. -/
theorem idleStepHoldsTheState : Obligations.IdleStepHoldsTheState := by
  intro s hs
  rw [step, hs]

/-- Settles O50, by the cases of a step: every command answers. -/
theorem everyStepAnswersNext : Obligations.EveryStepAnswersNext := by
  intro s
  obtain ⟨-, hstep⟩ | ⟨rest, -, hstep⟩ | ⟨cmd, din, rest, e, -, -, hstep⟩ | ⟨cmd, din, rest, i, -, -, hstep⟩ := step_cases s
  · exact ⟨_, hstep⟩
  · exact ⟨_, hstep⟩
  · exact ⟨_, hstep⟩
  · obtain ⟨t, ht⟩ := exec_answers i (s.accept din rest)
    exact ⟨t, hstep.trans ht⟩

end Sys2Proof.Safety

/-! SUPPORT. Reset and hazards (70_reset_and_hazards.md): what a session refuses, and a load on top of a full key or nonce. -/

namespace Sys2Proof.Machine

open Sys2Proof.Safety

variable {i : Instr} {s t : State}

/-! ## What a session refuses (R181, R217) -/

/-- A command that R181 does not allow in a session checks Busy, and first. -/
theorem checksOf_of_not_allowed (h : allowedInSession i = false) (s : State) :
    ∃ checks, checksOf i s = s.busyCheck :: checks := by
  cases i with
  | nop | rst | rdr | wr | sr | ksr | xb | xw | send => exact absurd h Bool.noConfusion
  | kclr | kb | kw | nclr | nb | nw | ctrw | init | qr | colr | diagr | dblr | ffwd | ww | block | sbegin =>
    exact ⟨_, rfl⟩

theorem busyInSession_of_not_allowed (h : allowedInSession i = false) : BusyInSession i := by
  intro s hs
  obtain ⟨checks, hchecks⟩ := checksOf_of_not_allowed h s
  exact exec_of_fault (c := .busy) (by rw [hchecks, State.busyCheck, hs]; rfl)

/-- Of the commands allowed in a session RST alone writes the key, the nonce or COUNTER (R39, R181). -/
theorem writtenBy_of_allowed (h : allowedInSession i = true) (hi : i ≠ .rst) :
    writtenBy .key i = false ∧ writtenBy .nonce i = false ∧ writtenBy .counter i = false := by
  cases i with
  | rst => exact absurd rfl hi
  | nop | rdr | wr | sr | ksr | xb | xw | send => exact ⟨rfl, rfl, rfl⟩
  | kclr | kb | kw | nclr | nb | nw | ctrw | init | qr | colr | diagr | dblr | ffwd | ww | block | sbegin =>
    exact absurd h Bool.noConfusion

/-! ## A load on top of a full key or nonce (R215) -/

/-- A command whose one check is Busy takes its effect outside a session. -/
theorem eq_effectOf_of_no_session (h : exec i s = .next t) (hs : s.sess = false) (hchecks : checksOf i s = [s.busyCheck]) :
    t = (effectOf i s).succeed :=
  Host.Outcome.next.inj (h.symm.trans (exec_of_pass (hchecks ▸ firstFault_busy hs)))

/-- KB and KW on a full key count it as overlong. -/
theorem klen_of_load_on_full_key (hs : s.sess = false) (hk : s.klen = 32)
    (h : exec .kb s = .next t ∨ exec .kw s = .next t) : t.klen = 33 ∧ t.sess = false := by
  have hlen : s.klen.val = 32 := congrArg Fin.val hk
  obtain h | h := h <;> refine ⟨Fin.ext ?_, (exec_keeps_row h .sess rfl).trans hs⟩
  · rw [eq_effectOf_of_no_session h hs rfl, State.succeed_klen, effectOf, State.keyAppend_klen, hlen]
    rfl
  · rw [eq_effectOf_of_no_session h hs rfl, State.succeed_klen, effectOf_kw_klen, hlen]
    rfl

/-- NB and NW on a full nonce count it as overlong and keep the key's length. -/
theorem nlen_of_load_on_full_nonce (hs : s.sess = false) (hn : s.nlen = 12)
    (h : exec .nb s = .next t ∨ exec .nw s = .next t) : t.nlen = 13 ∧ t.klen = s.klen ∧ t.sess = false := by
  have hlen : s.nlen.val = 12 := congrArg Fin.val hn
  obtain h | h := h <;>
    refine ⟨Fin.ext ?_, (exec_keeps_row h .key rfl).2, (exec_keeps_row h .sess rfl).trans hs⟩
  · rw [eq_effectOf_of_no_session h hs rfl, State.succeed_nlen, effectOf, State.nonceAppend_nlen, hlen]
    rfl
  · rw [eq_effectOf_of_no_session h hs rfl, State.succeed_nlen, effectOf_nw_nlen, hlen]
    rfl

/-- The three commands that build a state check both lengths (R121). -/
theorem checksLengths_of_builds (h : i = .init ∨ i = .block ∨ i = .sbegin) : ChecksLengths i := by
  obtain rfl | rfl | rfl := h
  · exact checksLengths_of_checks exec_init
  · exact checksLengths_of_checks exec_block
  · exact checksLengths_of_checks exec_sbegin

end Sys2Proof.Machine

namespace Sys2Proof.Safety

open Sys2Proof.Machine

/-- Settles O49: a command that is not allowed raises Busy, and one that is allowed keeps the rows of R39 that are not its
own. -/
theorem sessionLocksKeyNonceAndCounter : Obligations.SessionLocksKeyNonceAndCounter := by
  intro i s t hs h
  have hbusy (ha : allowedInSession i = false) : t = faultState s 5 :=
    Host.Outcome.next.inj (h.symm.trans (busyInSession_of_not_allowed ha s hs))
  refine ⟨hbusy, fun hi => ?_⟩
  cases ha : allowedInSession i with
  | false =>
    rw [hbusy ha]
    exact ⟨rfl, rfl, rfl, rfl, rfl⟩
  | true =>
    obtain ⟨hwk, hwn, hwc⟩ := writtenBy_of_allowed ha hi
    obtain ⟨hkey, hklen⟩ := exec_keeps_row h .key hwk
    obtain ⟨hnonce, hnlen⟩ := exec_keeps_row h .nonce hwn
    exact ⟨hkey, hklen, hnonce, hnlen, exec_keeps_row h .counter hwc⟩

/-- Settles O23: the load leaves a length that is no full one, and the next `CheckLengths` reports it. -/
theorem secondLoadWithoutClearFaults : Obligations.SecondLoadWithoutClearFaults := by
  intro s t hs hk
  refine ⟨fun h => ?_, fun hn h => ?_⟩
  · obtain ⟨hklen, hsess⟩ := klen_of_load_on_full_key hs hk h
    refine ⟨hklen, fun i hi => ?_⟩
    obtain ⟨hfault, -⟩ := checksLengths_of_builds hi t hsess
    exact hfault (by rw [hklen]; decide)
  · obtain ⟨hnlen, hklen, hsess⟩ := nlen_of_load_on_full_nonce hs hn h
    refine ⟨hnlen, fun i hi => ?_⟩
    obtain ⟨-, hfault⟩ := checksLengths_of_builds hi t hsess
    exact hfault (hklen.trans hk) (by rw [hnlen]; decide)

end Sys2Proof.Safety
